-- ==== Sys2Proof/Word.lean ====
section
/-! DEFINITION. The words of the MD5 Engine: 32-bit registers and 8-bit bytes, unsigned (R10, R11).
The spec's `+` on u32 and on the 64-bit counter is `BitVec` addition, which wraps (R11); `&`, `|`, `^`, `~` are the
bitwise operations of `BitVec`; integers written on `nat` are `Nat`. -/

namespace Sys2Proof

/-- A 32-bit unsigned word, the spec's `u32` (R11, R20). -/
abbrev Word := BitVec 32

/-- One byte (R13). -/
abbrev Byte := BitVec 8

end Sys2Proof
end

