-- ==== Sys2Proof/Config.lean ====
section
/-! DEFINITION. What the platform fixes and what the spec leaves free.
`Params` are the parameters of R9 that a rule of the engine reads; no step changes them (R45).
`Config.freeWord` and `Config.freeByte` are the spec's ANY (R14): constants without a body, applied to a counter that
`State` holds, so that nothing can be proved about a value drawn from them.
`Config.windowNumber` is the open place of the window in the platform's address map (R9, R50). -/

namespace Sys2Proof

/-- The parameters a model takes as arguments (R9, R45): `maxBytes` is MAX_BYTES. They are held in `State`, as plain
data that no step changes, so that a statement about every state is a statement about every value of them (log entry
1). -/
structure Params where
  /-- MAX_BYTES, the largest total byte count ABSORB accepts (R168). -/
  maxBytes : Nat
deriving DecidableEq, Repr

/-- R9: MAX_BYTES "default 2^61 − 1". -/
def Params.default : Params := { maxBytes := 2 ^ 61 - 1 }

/-- R9: 0 ≤ MAX_BYTES ≤ 2^61 − 1. -/
def Params.wf (p : Params) : Bool := decide (p.maxBytes ≤ 2 ^ 61 - 1)

/-- The spec's ANY at 32 bits (R14, R37, R42): the n-th free word. -/
opaque Config.freeWord : Nat → Word

/-- The spec's ANY at 8 bits (R14, R24, R42): the n-th free byte. -/
opaque Config.freeByte : Nat → Byte

/-- Which 128-byte block of the platform's address map the window fills (log entry 13). -/
opaque Config.windowNumber : Nat

/-- MD5_BASE, the open base address of the window, a multiple of 128 (R9, R50). -/
def Config.md5Base : Nat := 128 * Config.windowNumber

end Sys2Proof
end

