-- ==== Sys2Proof/Syntax.lean ====
section
/-! DEFINITION. The instructions of the MD5 Engine, one constructor per row of spec/opcode_table.json: the four
commands of MD5E-CMD v1 (R70, R71, R76) and the four step kinds decoded from the 6-bit step counter STEP (R77, R78). -/

namespace Sys2Proof

/-- The engine's instructions.
A command carries the operand field of its command word (LEN of R70); a step kind carries POSN, the low four bits of
STEP (R77). -/
inductive Instr where
  /-- NOP, command word 0x00000000 (R125). -/
  | nop
  /-- INIT, command word 0x00000001 (R122). -/
  | init
  /-- ABSORB n, command word 0x00000002 + n * 0x100 (R123); `len` is the field LEN, bits 14:8. -/
  | absorb (len : BitVec 7)
  /-- FINAL, command word 0x00000003 (R140). -/
  | final
  /-- STEP_F, STEP = 00jjjj (R101). -/
  | stepF (posn : BitVec 4)
  /-- STEP_G, STEP = 01jjjj (R102). -/
  | stepG (posn : BitVec 4)
  /-- STEP_H, STEP = 10jjjj (R103). -/
  | stepH (posn : BitVec 4)
  /-- STEP_I, STEP = 11jjjj (R104). -/
  | stepI (posn : BitVec 4)
deriving DecidableEq, Repr

/-- The two encoding formats of the opcode table: a 32-bit command word, and the 6-bit step index. -/
inductive Format where
  | cmd
  | step
deriving DecidableEq, Repr

/-- The format of each row of the opcode table. -/
def Instr.format : Instr → Format
  | .nop => .cmd
  | .init => .cmd
  | .absorb _ => .cmd
  | .final => .cmd
  | .stepF _ => .step
  | .stepG _ => .step
  | .stepH _ => .step
  | .stepI _ => .step

/-- The four rounds of a compression, named by the round function each selects (R78, R95). -/
inductive StepKind where
  | F
  | G
  | H
  | I
deriving DecidableEq, Repr

end Sys2Proof
end

