-- ==== Sys2Proof/Machine/State.lean ====
section
/-! DEFINITION. The state of the machine: every register of 10_state.md section 1, the compressor's internals (R36),
the parameters (R45), the host's remaining accesses and the order in which the agents move (R7, R61), and the log of
what the host has read (R191). Plain data throughout. -/

namespace Sys2Proof.Machine

/-- The chaining state: STATE_A, STATE_B, STATE_C, STATE_D (R20). -/
structure Chain where
  a : Word
  b : Word
  c : Word
  d : Word
deriving DecidableEq, Repr

/-- The compressor's internal state (R36): the working registers a, b, c, d, the 6-bit step counter STEP and the
sixteen message words X. -/
structure Work where
  a : Word
  b : Word
  c : Word
  d : Word
  /-- STEP. -/
  step : BitVec 6
  /-- X[0..15]. -/
  x : Vector Word 16
deriving DecidableEq, Repr

/-- The error codes 1 to 5 of R160. -/
inductive ErrorCode where
  | illegalCmd
  | badLen
  | seq
  | busyWrite
  | limit
deriving DecidableEq, Repr

/-- One accepted command in PEND: its opcode, and for ABSORB its length and the snapshot of its operand bytes (R30). -/
inductive Pending where
  | nop
  | init
  | absorb (len : BitVec 7) (bytes : List Byte)
  | final
deriving DecidableEq, Repr

/-- One statement of the host's program: a bus transaction or host-local control (R52, R80). Offsets are from MD5_BASE
(R14); `width` is the access's width in bytes. REPEAT and the pseudo-instructions of R81 to R83 are expansions into
lists of these (Machine/HostAgent.lean). -/
inductive HostOp where
  /-- `RD`: `$t <- BusRead(off, width)`. -/
  | read (off width t : Nat)
  /-- `WR`: `BusWrite(off, width, v)`. -/
  | write (off width : Nat) (v : Word)
  /-- `POLL`: read STATUS until its BUSY bit is 0. -/
  | poll
  /-- `EXPECT $t == imm`: a host-side check, no bus transaction. -/
  | expect (t : Nat) (imm : Word)
deriving DecidableEq, Repr

/-- Who moves next in the one total order of events (R61): the host, the engine, or the platform's reset input (R181). -/
inductive Turn where
  | host
  | engine
  | reset
deriving DecidableEq, Repr

/-- The machine. -/
@[ext]
structure State where
  /-- STATE_A..STATE_D (R20). -/
  chain : Chain
  /-- BUF[0..63] (R22). -/
  buf : Vector Byte 64
  /-- POS, 6 bits (R23). -/
  pos : BitVec 6
  /-- COUNT, 64 bits, counts bytes (R25). -/
  count : BitVec 64
  /-- DONE (R28). -/
  done : Bool
  /-- ERR (R29). -/
  err : Bool
  /-- ERRCODE, 4 bits (R29, R160). -/
  errcode : BitVec 4
  /-- BUSY (R30). -/
  busy : Bool
  /-- PEND (R30). -/
  pend : Option Pending
  /-- DATA0..DATA15 (R32). -/
  data : Vector Word 16
  /-- The model's own: which DATA registers the host has written since reset; the others read ANY (R32; log entry 6). -/
  written : Vector Bool 16
  /-- a, b, c, d, STEP, X[0..15] (R36). -/
  work : Work
  /-- The model's own: true in a state inside a COMPRESS, between two of its 64 steps (R36, R39; log entry 2). -/
  compressing : Bool
  /-- The parameters of R9; no step changes them (R45). -/
  params : Params
  /-- The host's statements still to run, in program order (R61, R80). -/
  host : List HostOp
  /-- The agents' next turns; when it runs out, the engine moves if it can, and else the host (R62; log entry 3). -/
  sched : List Turn
  /-- The host's temporaries, as a log of (number, value read), the newest first (R79, R191). -/
  reads : List (Nat × Word)
  /-- The results of the EXPECT statements, the oldest first (R80). -/
  checks : List Bool
  /-- The model's own: how many free values have been drawn (log entry 4). -/
  draws : Nat
deriving DecidableEq, Repr

/-- Why a step stops. -/
inductive Fault where
  /-- A host access to the window whose width is not 4 or whose offset is no multiple of 4: the bus error of R53 and
  R167, "a fault of the host program". Raised by the host's turn; the spec's own stop (safe: no engine state is
  claimed after it). -/
  | busError
  /-- A host access at an offset of 0x80 or more: no address of the window, "not decoded by the engine" (R51). Raised by
  the host's turn; safe. -/
  | outsideWindow
  /-- BUSY = 1 with nothing in PEND: R30 says this never holds. Raised by the engine's turn in states no run reaches;
  safe (log entry 11). -/
  | pendMissing
  /-- ABSORB executed while PEND does not hold an ABSORB's snapshot of exactly LEN bytes: R30 says this never holds.
  Raised by ABSORB in states no run reaches; safe (log entry 11). -/
  | operandMissing
deriving DecidableEq, Repr

/-- Why a step refuses. -/
inductive Refusal where
  /-- No meaning has been given to the instruction yet. Raised by exec's arms only; safe. -/
  | notModelled (mnemonic : String)
deriving DecidableEq, Repr

/-- The IV (R27). -/
def Chain.iv : Chain := { a := 0x67452301, b := 0xefcdab89, c := 0x98badcfe, d := 0x10325476 }

/-- The compressor's internals before the first compression: R36 gives them no reset value that any rule reads, so all
zero (log entry 5). -/
def Work.zero : Work := { a := 0, b := 0, c := 0, d := 0, step := 0, x := Vector.replicate 16 0 }

/-- The state after a reset that happens when `draws` free values have been drawn (R42, R180): the fixed values of
R42; BUF and DATA each a fresh free value, the spec's ANY (log entry 4); the environment (parameters, host, turns,
read log, checks) as given. -/
def State.afterReset (params : Params) (host : List HostOp) (sched : List Turn) (reads : List (Nat × Word))
    (checks : List Bool) (draws : Nat) : State :=
  { chain := Chain.iv
    buf := Vector.ofFn fun i => Config.freeByte (draws + i.val)
    pos := 0
    count := 0
    done := false
    err := false
    errcode := 0
    busy := false
    pend := none
    data := Vector.ofFn fun k => Config.freeWord (draws + k.val)
    written := Vector.replicate 16 false
    work := Work.zero
    compressing := false
    params := params
    host := host
    sched := sched
    reads := reads
    checks := checks
    draws := draws + 64 }

/-- The machine right after reset (R42, R180), with the default parameters (R9), no host program and no turns laid
down. -/
def State.reset : State := State.afterReset Params.default [] [] [] [] 0

end Sys2Proof.Machine
end

