-- ==== Sys2Proof/Machine/Flags.lean ====
section
/-! DEFINITION. The engine's only flags: BUSY, DONE, ERR and ERRCODE (R40), and STATUS, which shows them (R33).
No compression step writes a flag (R40). -/

namespace Sys2Proof.Machine

/-- R160: the number of each error code. -/
def ErrorCode.code : ErrorCode → BitVec 4
  | .illegalCmd => 1
  | .badLen => 2
  | .seq => 3
  | .busyWrite => 4
  | .limit => 5

/-- R33: `STATUS = zext_32({POS, ERRCODE, 0b0, ERR, DONE, BUSY})`, with the value that its POS field shows given. -/
def State.statusWith (s : State) (pos : BitVec 6) : Word :=
  (0#18 ++ pos ++ s.errcode ++ 0#1 ++ BitVec.ofBool s.err ++ BitVec.ofBool s.done ++ BitVec.ofBool s.busy : BitVec 32)

/-- R30: acceptance sets PEND and BUSY = 1. -/
def State.setPending (p : Pending) (s : State) : State := { s with pend := some p, busy := true }

/-- R30, R121: the engine step that executes the command ends with PEND <- none, BUSY <- 0. -/
def State.retire (s : State) : State := { s with pend := none, busy := false }

/-- R28, R143: DONE <- 1. -/
def State.setDone (s : State) : State := { s with done := true }

end Sys2Proof.Machine
end

