-- ==== Sys2Proof/WellFormed.lean ====
section
/-! DEFINITION. Which instructions the engine accepts as well formed: the one check is ABSORB's LEN, 0 to 64 (R72). -/

namespace Sys2Proof

/-- R72: "Values 0 to 64 are legal"; every POSN of a step kind is legal (R78), and the other commands have no
operand. -/
def Instr.wf : Instr → Bool
  | .nop => true
  | .init => true
  | .absorb len => decide (len.toNat ≤ 64)
  | .final => true
  | .stepF _ => true
  | .stepG _ => true
  | .stepH _ => true
  | .stepI _ => true

end Sys2Proof
end

