-- ==== Sys2Proof/Decode.lean ====
section
/-! DEFINITION. Decoding and encoding.
A command is one 32-bit word (R70 to R76), stored as four bytes, the least significant at the lowest address (R55); a
step index is the 6-bit counter STEP (R77, R78), laid out here as one byte whose top two bits are 0 (log entry 12). The
decoder is total and refuses by name; the encoder stands after it. -/

namespace Sys2Proof

/-! ## Byte order (R12) -/

/-- R12: `le32(b0, b1, b2, b3)`, the first byte least significant. -/
def le32 (b0 b1 b2 b3 : Byte) : Word :=
  b0.setWidth 32 ||| (b1.setWidth 32 <<< 8) ||| (b2.setWidth 32 <<< 16) ||| (b3.setWidth 32 <<< 24)

/-- R12: `le32bytes(w) = (w[7:0], w[15:8], w[23:16], w[31:24])`. -/
def le32bytes (w : Word) : List Byte :=
  [w.extractLsb' 0 8, w.extractLsb' 8 8, w.extractLsb' 16 8, w.extractLsb' 24 8]

/-! ## The command word -/

/-- What `Decode(v)` of R73 answers. -/
inductive DecodedCommand where
  | nop
  | init
  | absorb (len : BitVec 7)
  | final
  /-- Raises ILLEGAL_CMD at acceptance (R75). -/
  | illegal
  /-- Raises BAD_LEN at acceptance (R75). -/
  | badLen
deriving DecidableEq, Repr

/-- The field OP of a command word, bits 3:0 (R70). -/
def opField (v : Word) : BitVec 4 := v.extractLsb' 0 4

/-- The field LEN of a command word, bits 14:8 (R70, R72). -/
def lenField (v : Word) : BitVec 7 := v.extractLsb' 8 7

/-- R70: bits 7:4 and 31:15 of a command word are reserved and must be 0. -/
def reservedClear (v : Word) : Bool := v.extractLsb' 4 4 == 0#4 && v.extractLsb' 15 17 == 0#17

/-- R73, line by line. -/
def decodeCommand (v : Word) : DecodedCommand :=
  if reservedClear v = false then .illegal
  else if 4 ≤ (opField v).toNat then .illegal
  else if opField v ≠ 2#4 ∧ lenField v ≠ 0#7 then .illegal
  else if opField v = 0#4 then .nop
  else if opField v = 1#4 then .init
  else if opField v = 3#4 then .final
  else if 64 < (lenField v).toNat then .badLen
  else .absorb (lenField v)

/-! ## The step index -/

/-- R78: STEP[5:4] selects the step kind; every STEP value is legal. -/
def stepKind (i : BitVec 6) : StepKind :=
  match (i.extractLsb' 4 2).toNat with
  | 0 => .F
  | 1 => .G
  | 2 => .H
  | _ => .I

/-- R77: POSN, STEP[3:0], the position j = i mod 16 within the round. -/
def posnField (i : BitVec 6) : BitVec 4 := i.extractLsb' 0 4

/-- R78: the step instruction that a STEP value selects. -/
def decodeStep (i : BitVec 6) : Instr :=
  match stepKind i with
  | .F => .stepF (posnField i)
  | .G => .stepG (posnField i)
  | .H => .stepH (posnField i)
  | .I => .stepI (posnField i)

/-! ## Decoding bytes -/

/-- Why some bytes are no instruction. -/
inductive DecodeError where
  /-- A command word that R73 calls Illegal. -/
  | illegalCommand
  /-- An ABSORB with LEN 65 to 127 (R72, R73). -/
  | badLength
  /-- One byte with bit 6 or bit 7 set: STEP has six bits (R77). -/
  | notAStepIndex
  /-- Neither the four bytes of a command word (R74) nor the one byte of a step index. -/
  | wrongSize
deriving DecidableEq, Repr

/-- The instruction a decoded command word stands for, or the name of its refusal. -/
def DecodedCommand.toInstr : DecodedCommand → Except DecodeError Instr
  | .nop => .ok .nop
  | .init => .ok .init
  | .absorb len => .ok (.absorb len)
  | .final => .ok .final
  | .illegal => .error .illegalCommand
  | .badLen => .error .badLength

/-- The decoder, total on all byte lists: four bytes are a command word, one byte is a step index. -/
def decodeBytes : List Byte → Except DecodeError Instr
  | [b0, b1, b2, b3] => (decodeCommand (le32 b0 b1 b2 b3)).toInstr
  | [b] => if b.toNat < 64 then .ok (decodeStep (b.setWidth 6)) else .error .notAStepIndex
  | _ => .error .wrongSize

/-- The bytes of a table word: a row of at most 8 bits is a step index, every other row a command word (R74), its
bits above `nbits` zero. -/
def tableBytes (nbits w : Nat) : List Byte :=
  if nbits ≤ 8 then [BitVec.ofNat 8 w] else le32bytes (BitVec.ofNat 32 w)

/-- The instruction the decoder reads from a word numbered as spec/opcode_table.json numbers it; none where the word
does not fit its bytes or the decoder refuses it. -/
def decodeTableWord (nbits w : Nat) : Option Instr :=
  if w < 2 ^ (8 * (tableBytes nbits w).length) then (decodeBytes (tableBytes nbits w)).toOption else none

/-! ## Encoding -/

/-- R70, R76: the command word with operation `op` and length field `len`. -/
def commandWord (op : BitVec 4) (len : BitVec 7) : Word :=
  op.setWidth 32 ||| (len.setWidth 32 <<< 8)

/-- R77, R78: the STEP value of a step kind at position `posn`. -/
def stepIndex (k : StepKind) (posn : BitVec 4) : BitVec 6 :=
  match k with
  | .F => 0#2 ++ posn
  | .G => 1#2 ++ posn
  | .H => 2#2 ++ posn
  | .I => 3#2 ++ posn

/-- The bytes of an instruction, lowest address first. -/
def encode : Instr → List Byte
  | .nop => le32bytes (commandWord 0 0)
  | .init => le32bytes (commandWord 1 0)
  | .absorb len => le32bytes (commandWord 2 len)
  | .final => le32bytes (commandWord 3 0)
  | .stepF posn => [(stepIndex .F posn).setWidth 8]
  | .stepG posn => [(stepIndex .G posn).setWidth 8]
  | .stepH posn => [(stepIndex .H posn).setWidth 8]
  | .stepI posn => [(stepIndex .I posn).setWidth 8]

end Sys2Proof
end

