-- ==== Sys2Proof/Machine/Operands.lean ====
section
/-! DEFINITION. Every operand the instructions read: the DATA window as bytes (R32), the step tables K, S and g (R97 to
R99), the message words of a block (R96), bytes written into BUF (R124), the padding of FINAL (R141, R142), the map of
the register window (R31). -/

namespace Sys2Proof.Machine

/-! ## The DATA window (R32) -/

/-- DATAk as it is read now: the last value written, or ANY if nothing has been written since reset (R32), the k-th of
the free values not yet drawn. -/
def State.dataWord (s : State) (k : Fin 16) : Word :=
  if s.written[k] then s.data[k] else Config.freeWord (s.draws + k.val)

/-- The sixteen words of the DATA window as they are read now. -/
def State.windowWords (s : State) : Vector Word 16 := Vector.ofFn fun k => s.dataWord k

/-- The 64 bytes of a window of sixteen words, byte j from word j div 4, little-endian (R32). -/
def windowBytes (words : Vector Word 16) : List Byte := words.toList.flatMap le32bytes

/-- W[0 .. n), the operand bytes of ABSORB n (R32, R123). -/
def State.snapshot (n : Nat) (s : State) : List Byte := (windowBytes s.windowWords).take n

/-! ## The step tables -/

/-- The row r = 0 of R97. -/
def rowF : Vector Word 16 := #v[
  0xd76aa478, 0xe8c7b756, 0x242070db, 0xc1bdceee, 0xf57c0faf, 0x4787c62a, 0xa8304613, 0xfd469501,
  0x698098d8, 0x8b44f7af, 0xffff5bb1, 0x895cd7be, 0x6b901122, 0xfd987193, 0xa679438e, 0x49b40821]

/-- The row r = 1 of R97. -/
def rowG : Vector Word 16 := #v[
  0xf61e2562, 0xc040b340, 0x265e5a51, 0xe9b6c7aa, 0xd62f105d, 0x02441453, 0xd8a1e681, 0xe7d3fbc8,
  0x21e1cde6, 0xc33707d6, 0xf4d50d87, 0x455a14ed, 0xa9e3e905, 0xfcefa3f8, 0x676f02d9, 0x8d2a4c8a]

/-- The row r = 2 of R97. -/
def rowH : Vector Word 16 := #v[
  0xfffa3942, 0x8771f681, 0x6d9d6122, 0xfde5380c, 0xa4beea44, 0x4bdecfa9, 0xf6bb4b60, 0xbebfbc70,
  0x289b7ec6, 0xeaa127fa, 0xd4ef3085, 0x04881d05, 0xd9d4d039, 0xe6db99e5, 0x1fa27cf8, 0xc4ac5665]

/-- The row r = 3 of R97. -/
def rowI : Vector Word 16 := #v[
  0xf4292244, 0x432aff97, 0xab9423a7, 0xfc93a039, 0x655b59c3, 0x8f0ccc92, 0xffeff47d, 0x85845dd1,
  0x6fa87e4f, 0xfe2ce6e0, 0xa3014314, 0x4e0811a1, 0xf7537e82, 0xbd3af235, 0x2ad7d2bb, 0xeb86d391]

/-- K[i] (R97): row STEP[5:4], column STEP[3:0]. -/
def constK (i : BitVec 6) : Word :=
  match stepKind i with
  | .F => rowF[(posnField i).toFin]
  | .G => rowG[(posnField i).toFin]
  | .H => rowH[(posnField i).toFin]
  | .I => rowI[(posnField i).toFin]

/-- The rotation amounts of one round, by i mod 4 (R98). -/
def rotRow : StepKind → Vector Nat 4
  | .F => #v[7, 12, 17, 22]
  | .G => #v[5, 9, 14, 20]
  | .H => #v[4, 11, 16, 23]
  | .I => #v[6, 10, 15, 21]

/-- S[r][i mod 4] (R98); i mod 4 is STEP[1:0] (R77). -/
def rotAmount (i : BitVec 6) : Nat := (rotRow (stepKind i))[(i.extractLsb' 0 2).toFin]

/-- g(i), the index of the message word that step i uses (R99). -/
def msgIndex (i : BitVec 6) : Fin 16 :=
  match stepKind i with
  | .F => Fin.ofNat 16 (posnField i).toNat
  | .G => Fin.ofNat 16 (5 * (posnField i).toNat + 1)
  | .H => Fin.ofNat 16 (3 * (posnField i).toNat + 5)
  | .I => Fin.ofNat 16 (7 * (posnField i).toNat)

/-! ## The datapath of a step -/

/-- R90: ROTL, the 32-bit rotate-left barrel shifter. -/
def rotl (x : Word) (s : Nat) : Word := if s = 0 then x else (x <<< s) ||| (x >>> (32 - s))

/-- R91: F(b, c, d) = (b & c) | (~b & d). -/
def roundF (b c d : Word) : Word := (b &&& c) ||| (~~~b &&& d)

/-- R92: G(b, c, d) = (b & d) | (c & ~d). -/
def roundG (b c d : Word) : Word := (b &&& d) ||| (c &&& ~~~d)

/-- R93: H(b, c, d) = b ^ c ^ d. -/
def roundH (b c d : Word) : Word := b ^^^ c ^^^ d

/-- R94: I(b, c, d) = c ^ (b | ~d). -/
def roundI (b c d : Word) : Word := c ^^^ (b ||| ~~~d)

/-! ## Blocks and the block buffer -/

/-- R96: X[k] = le32(blk[4k], blk[4k+1], blk[4k+2], blk[4k+3]). -/
def parseBlock (blk : Vector Byte 64) : Vector Word 16 :=
  Vector.ofFn fun k => le32 blk[4 * k.val] blk[4 * k.val + 1] blk[4 * k.val + 2] blk[4 * k.val + 3]

/-- The first 64 bytes of a slice as a block; the callers give it at least 64 bytes, so the default is never read (log
entry 16). -/
def blockOf (l : List Byte) : Vector Byte 64 := Vector.ofFn fun i => l.getD i.val 0

/-- BUF[p .. p + |chunk|) <- chunk (R124): every other byte of BUF stays (log entry 15). -/
def fillBuf (buf : Vector Byte 64) (p : Nat) (chunk : List Byte) : Vector Byte 64 :=
  Vector.ofFn fun i => if i.val < p then buf[i] else (chunk[i.val - p]?).getD buf[i]

/-- BUF after a compression: BUF[0 .. |tail|) <- tail (R124), and each byte beyond it is stale from now on, so ANY
(R24; log entry 4). -/
def tailBuf (tail : List Byte) (draws : Nat) : Vector Byte 64 :=
  Vector.ofFn fun i => (tail[i.val]?).getD (Config.freeByte (draws + i.val))

/-! ## The padding of FINAL -/

/-- R141: padLen(POS). -/
def padLen (pos : Nat) : Nat := if 64 - pos < 9 then 128 - pos else 64 - pos

/-- R142: the low and the high word of COUNT << 3. -/
def lengthWords (count : BitVec 64) : Word × Word :=
  ((count <<< 3).extractLsb' 0 32, (count <<< 3).extractLsb' 32 32)

/-- R142: 0x80, padLen - 9 zero bytes, the low and then the high word of the bit length, little-endian. -/
def padding (pos : Nat) (count : BitVec 64) : List Byte :=
  [0x80#8] ++ List.replicate (padLen pos - 9) 0x00#8
    ++ le32bytes (lengthWords count).1 ++ le32bytes (lengthWords count).2

/-- R145: the digest bytes of a chaining state. -/
def Chain.bytes (h : Chain) : List Byte := le32bytes h.a ++ le32bytes h.b ++ le32bytes h.c ++ le32bytes h.d

/-! ## The register window (R31) -/

/-- The registers of the window, each standing for its offset (R31, R79). -/
inductive Reg where
  | ctrl
  | status
  | countLo
  | countHi
  | stateA
  | stateB
  | stateC
  | stateD
  | reserved
  | data (k : Fin 16)
deriving DecidableEq, Repr

/-- R31: the register at an offset that R52 allows (a multiple of 4, at most 0x7C). -/
def regAt (off : Nat) : Reg :=
  if off = 0x00 then .ctrl
  else if off = 0x04 then .status
  else if off = 0x08 then .countLo
  else if off = 0x0C then .countHi
  else if off = 0x10 then .stateA
  else if off = 0x14 then .stateB
  else if off = 0x18 then .stateC
  else if off = 0x1C then .stateD
  else if off < 0x40 then .reserved
  else .data (Fin.ofNat 16 ((off - 0x40) / 4))

/-- R31, R79: the offset of DATAk. -/
def dataOffset (k : Nat) : Nat := 0x40 + 4 * k

/-- R14, R55: the bus address of a byte of the window. -/
def busAddress (off : Nat) : Nat := Config.md5Base + off

/-- R50, R51: the offset of a bus address inside the window; none for an address the engine does not decode. -/
def windowOffset (addr : Nat) : Option Nat :=
  if Config.md5Base ≤ addr ∧ addr < Config.md5Base + 128 then some (addr - Config.md5Base) else none

/-- R55: byte lane j of a 32-bit value. -/
def byteLane (v : Word) (j : Nat) : Byte := v.extractLsb' (8 * j) 8

end Sys2Proof.Machine
end

