-- ==== Sys2Proof/Machine/Ops.lean ====
section
/-! DEFINITION. The shared operations: recording an error, which is all the "exception" this engine takes (R163, R171),
and beside it the one way back (INIT's clearing, R172); the platform's reset (R180); free values; the start and the end
of a compression (R100, R105). -/

namespace Sys2Proof.Machine

/-! ## Recording an error, and recovery -/

/-- R163: `raise Error(code)`: ERR and ERRCODE record the first error since INIT or reset, and nothing else changes. -/
def State.raiseError (c : ErrorCode) (s : State) : State :=
  if s.err then s else { s with err := true, errcode := c.code }

/-- R172: the host leaves a poisoned or finished context with INIT, which clears ERR, ERRCODE and DONE. -/
def State.clearError (s : State) : State := { s with err := false, errcode := 0, done := false }

/-- The rest of R122's InitContext: the IV, POS and COUNT; BUF and DATA are not changed (log entry 15). -/
def State.freshContext (s : State) : State := { s with chain := Chain.iv, pos := 0, count := 0 }

/-- R180: the platform's reset. A pending command is discarded; the parameters, the host and the turns are not the
engine's and stay. -/
def State.resetEngine (s : State) : State :=
  State.afterReset s.params s.host s.sched s.reads s.checks s.draws

/-! ## The pending command -/

/-- The command in PEND, as an instruction (R121). -/
def Pending.instr : Pending → Instr
  | .nop => .nop
  | .init => .init
  | .absorb len _ => .absorb len
  | .final => .final

/-! ## Turns and the DATA window -/

/-- The turn that stood next has been taken; `rest` is what is left of the turns laid down (R61; log entry 3). -/
def State.took (rest : List Turn) (s : State) : State := { s with sched := rest }

/-- R32, R52: the host stores a word in DATAk. -/
def State.storeData (k : Fin 16) (v : Word) (s : State) : State :=
  { s with data := s.data.set k.val v, written := s.written.set k.val true }

/-! ## Free values -/

/-- n free values have been drawn. -/
def State.drew (n : Nat) (s : State) : State := { s with draws := s.draws + n }

/-- A value that reads ANY while BUSY = 1 and exactly otherwise (R37), with the state after the read. -/
def State.anyWhileBusy (v : Word) (s : State) : Word × State :=
  if s.busy then (Config.freeWord s.draws, s.drew 1) else (v, s)

/-! ## The start and the end of a compression -/

/-- R100: X from the block, (a, b, c, d) <- (A, B, C, D), STEP <- 0. -/
def Chain.start (h : Chain) (blk : Vector Byte 64) : Work :=
  { a := h.a, b := h.b, c := h.c, d := h.d, step := 0, x := parseBlock blk }

/-- R105: the feed-forward (A + a, B + b, C + c, D + d), modulo 2^32. -/
def Chain.feed (h : Chain) (w : Work) : Chain := { a := h.a + w.a, b := h.b + w.b, c := h.c + w.c, d := h.d + w.d }

/-- A COMPRESS begins on the block (R100). -/
def State.beginCompress (blk : Vector Byte 64) (s : State) : State :=
  { s with work := s.chain.start blk, compressing := true }

/-- A COMPRESS ends: the feed-forward is written to STATE_A..STATE_D wholesale (R21, R105). -/
def State.endCompress (s : State) : State := { s with chain := s.chain.feed s.work, compressing := false }

/-- R101 to R104, what the four step kinds share: the add chain a + f(b, c, d) + K[i] + X[g(i)], the rotation by S, and
the parallel write (a, b, c, d) <- (d, b_new, b, c); STEP <- STEP + 1, six bits. -/
def Work.advance (f : Word → Word → Word → Word) (i : BitVec 6) (w : Work) : Work :=
  let t := w.a + f w.b w.c w.d + constK i + w.x[msgIndex i]
  { a := w.d, b := w.b + rotl t (rotAmount i), c := w.b, d := w.c, step := w.step + 1, x := w.x }

end Sys2Proof.Machine
end

