-- ==== Sys2Proof/Machine/Compressor.lean ====
section
/-! DEFINITION. The Block Compressor (40_compressor.md): the meanings of STEP_F, STEP_G, STEP_H and STEP_I, and
COMPRESS, which runs the 64 of them in the order of the step counter STEP. -/

namespace Sys2Proof.Machine

/-- R101: STEP_F on the working registers, i = j. -/
def Work.stepF (posn : BitVec 4) (w : Work) : Work := w.advance roundF (stepIndex .F posn)

/-- R102: STEP_G on the working registers, i = 16 + j. -/
def Work.stepG (posn : BitVec 4) (w : Work) : Work := w.advance roundG (stepIndex .G posn)

/-- R103: STEP_H on the working registers, i = 32 + j. -/
def Work.stepH (posn : BitVec 4) (w : Work) : Work := w.advance roundH (stepIndex .H posn)

/-- R104: STEP_I on the working registers, i = 48 + j. -/
def Work.stepI (posn : BitVec 4) (w : Work) : Work := w.advance roundI (stepIndex .I posn)

/-- R101: the meaning of STEP_F. -/
def execStepF (posn : BitVec 4) (s : State) : Host.Outcome State Fault Refusal :=
  .next { s with work := s.work.stepF posn }

/-- R102: the meaning of STEP_G. -/
def execStepG (posn : BitVec 4) (s : State) : Host.Outcome State Fault Refusal :=
  .next { s with work := s.work.stepG posn }

/-- R103: the meaning of STEP_H. -/
def execStepH (posn : BitVec 4) (s : State) : Host.Outcome State Fault Refusal :=
  .next { s with work := s.work.stepH posn }

/-- R104: the meaning of STEP_I. -/
def execStepI (posn : BitVec 4) (s : State) : Host.Outcome State Fault Refusal :=
  .next { s with work := s.work.stepI posn }

/-- One compression step: STEP[5:4] selects the step kind (R78, R95), STEP[3:0] is its POSN. -/
def Work.tick (w : Work) : Work :=
  match stepKind w.step with
  | .F => w.stepF (posnField w.step)
  | .G => w.stepG (posnField w.step)
  | .H => w.stepH (posnField w.step)
  | .I => w.stepI (posnField w.step)

/-- `f w`, with register a looked at first. Both branches are the same, so this is `f w` (`Work.strictly_eq`); but a
term whose registers are numerals is evaluated step by step, and one whose registers are variables stays folded, where
Lean would otherwise unfold all 64 steps of a compression whenever it compares two states. -/
def Work.strictly (w : Work) (f : Work → Work) : Work := if w.a = 0 then f w else f w

/-- n compression steps. -/
def Work.ticks : Nat → Work → Work
  | 0, w => w
  | n + 1, w => w.strictly fun v => Work.ticks n v.tick

/-- All 64 steps of a COMPRESS that has begun; STEP runs from 0 to 63 (R39, R105). -/
def State.runSteps (s : State) : State := { s with work := s.work.ticks 64 }

/-- R105: COMPRESS on the engine's registers: begin, 64 steps, feed-forward. "COMPRESS always completes all 64 steps"
(R109). -/
def State.compress (blk : Vector Byte 64) (s : State) : State := (s.beginCompress blk).runSteps.endCompress

/-- After the compression step of index i, seen on its own: COMPRESS ends with step 63 (R39, R105). -/
def State.afterStep (i : BitVec 6) (s : State) : State := if i = 63#6 then s.endCompress else s

end Sys2Proof.Machine
end

