-- ==== Sys2Proof/Machine/Update.lean ====
section
/-! DEFINITION. The Buffering/Update Pipeline (41_update.md): UPDATE, and the meanings of NOP, INIT and ABSORB, which are
the execution of an accepted command by one engine step (R121). -/

namespace Sys2Proof.Machine

/-- R124: COMPRESS on each of the first n 64-byte slices of the bytes, in order. -/
def State.compressSlices : Nat → List Byte → State → State
  | 0, _, s => s
  | n + 1, bytes, s => State.compressSlices n (bytes.drop 64) (s.compress (blockOf bytes))

/-- R124, step 2: the chunk fits in BUF with room left; no compression. -/
def State.updateShort (chunk : List Byte) (s : State) : State :=
  { s with
    buf := fillBuf s.buf s.pos.toNat chunk
    pos := BitVec.ofNat 6 (s.pos.toNat + chunk.length)
    count := s.count + BitVec.ofNat 64 chunk.length }

/-- R124, step 3: complete BUF and compress it, compress each whole slice of the rest, and keep the remainder. -/
def State.updateFull (chunk : List Byte) (s : State) : State :=
  let free := 64 - s.pos.toNat
  let full := fillBuf s.buf s.pos.toNat (chunk.take free)
  let rest := chunk.drop free
  let slices := rest.length / 64
  let tail := rest.drop (64 * slices)
  let t := ({ s with buf := full }.compress full).compressSlices slices rest
  { t with
    buf := tailBuf tail t.draws
    pos := BitVec.ofNat 6 tail.length
    count := t.count + BitVec.ofNat 64 chunk.length
    draws := t.draws + 64 }

/-- R124: UPDATE, for a chunk of any length. -/
def State.update (chunk : List Byte) (s : State) : State :=
  if chunk.length < 64 - s.pos.toNat then s.updateShort chunk else s.updateFull chunk

/-- The operand bytes that PEND holds for an ABSORB of n bytes (R30, R123). -/
def State.operand (n : Nat) (s : State) : Option (List Byte) :=
  match s.pend with
  | some (.absorb _ bytes) => if bytes.length = n then some bytes else none
  | _ => none

/-- R125: NOP. No effect; BUSY is cleared. -/
def execNop (s : State) : Host.Outcome State Fault Refusal := .next s.retire

/-- R122: INIT. -/
def execInit (s : State) : Host.Outcome State Fault Refusal := .next s.freshContext.clearError.retire

/-- R123: ABSORB n, UPDATE of the bytes snapshotted at acceptance. -/
def execAbsorb (len : BitVec 7) (s : State) : Host.Outcome State Fault Refusal :=
  match s.operand len.toNat with
  | some bytes => .next (s.update bytes).retire
  | none => .fault .operandMissing

end Sys2Proof.Machine
end

