-- ==== Sys2Proof/Machine/Finalize.lean ====
section
/-! DEFINITION. The Finalizer (42_finalize.md): the meaning of FINAL. -/

namespace Sys2Proof.Machine

/-- R143: Finalize(): UPDATE of the padding, exactly once, then DONE <- 1. -/
def State.finalize (s : State) : State := (s.update (padding s.pos.toNat s.count)).setDone

/-- R140: FINAL. -/
def execFinal (s : State) : Host.Outcome State Fault Refusal := .next s.finalize.retire

end Sys2Proof.Machine
end

