-- ==== Sys2Proof/Machine/Dispatch.lean ====
section
/-! DEFINITION. The dispatch of instructions to their meanings. -/

namespace Sys2Proof.Machine

-- A command's arm is its execution by one engine step (R121); a step kind's arm is one compression step (R101 to R104).
def exec (i : Instr) (s : State) : Host.Outcome State Fault Refusal :=
  match i with
  | .nop => Sys2Proof.Machine.execNop s
  | .init => Sys2Proof.Machine.execInit s
  | .absorb len => Sys2Proof.Machine.execAbsorb len s
  | .final => Sys2Proof.Machine.execFinal s
  | .stepF posn => Sys2Proof.Machine.execStepF posn s
  | .stepG posn => Sys2Proof.Machine.execStepG posn s
  | .stepH posn => Sys2Proof.Machine.execStepH posn s
  | .stepI posn => Sys2Proof.Machine.execStepI posn s

end Sys2Proof.Machine
end

