-- ==== Sys2Proof/Machine/Accept.lean ====
section
/-! DEFINITION. Acceptance of a command, the first of its two phases (R120): the checks, in the order of R169, and what
PEND then holds. -/

namespace Sys2Proof.Machine

/-- R120: an ABSORB, a bad length or a FINAL is ignored while ERR = 1 (R164) and raises SEQ while DONE = 1 (R165). -/
def State.ifFresh (s onward : State) : State :=
  if s.err then s else if s.done then s.raiseError .seq else onward

/-- R120, R63: PEND <- (ABSORB, n, W[0 .. n)); the window is read once, here. -/
def State.pendAbsorb (len : BitVec 7) (s : State) : State :=
  (s.setPending (.absorb len (s.snapshot len.toNat))).drew 16

/-- R120, R168: ABSORB n on a fresh context: LIMIT if COUNT + n > MAX_BYTES (log entry 7), else pending. -/
def State.acceptAbsorb (len : BitVec 7) (s : State) : State :=
  if s.params.maxBytes < s.count.toNat + len.toNat then s.raiseError .limit else s.pendAbsorb len

/-- R120: Accept(v). -/
def State.accept (v : Word) (s : State) : State :=
  if s.busy then s.raiseError .busyWrite
  else
    match decodeCommand v with
    | .illegal => s.raiseError .illegalCmd
    | .nop => s.setPending .nop
    | .init => s.setPending .init
    | .absorb len => s.ifFresh (s.acceptAbsorb len)
    | .badLen => s.ifFresh (s.raiseError .badLen)
    | .final => s.ifFresh (s.setPending .final)

end Sys2Proof.Machine
end

