-- ==== Sys2Proof/Machine/Bus.lean ====
section
/-! DEFINITION. The register window on the host's bus (20_memory.md): BusRead and BusWrite (R52), and the accesses they
refuse (R51, R53). -/

namespace Sys2Proof.Machine

/-- Why an access is none of R52's: outside the window (R51), or of a width other than 4 or at an offset that is no
multiple of 4 (R53; log entry 9). -/
def accessFault (off width : Nat) : Option Fault :=
  if 0x80 ≤ off then some .outsideWindow
  else if width ≠ 4 ∨ off % 4 ≠ 0 then some .busError
  else none

/-- R52: the value a legal read of a register returns, and the state after it, which differs only in the free values
drawn (R58, R37). -/
def State.readReg (r : Reg) (s : State) : Word × State :=
  match r with
  | .ctrl => (0, s)
  | .status =>
    if s.busy then (s.statusWith ((Config.freeWord s.draws).setWidth 6), s.drew 1) else (s.statusWith s.pos, s)
  | .countLo => s.anyWhileBusy (s.count.extractLsb' 0 32)
  | .countHi => s.anyWhileBusy (s.count.extractLsb' 32 32)
  | .stateA => s.anyWhileBusy s.chain.a
  | .stateB => s.anyWhileBusy s.chain.b
  | .stateC => s.anyWhileBusy s.chain.c
  | .stateD => s.anyWhileBusy s.chain.d
  | .reserved => (0, s)
  | .data k => if s.written[k] then (s.data[k], s) else (Config.freeWord s.draws, s.drew 1)

/-- R52: the effect of a legal write to a register. Writes to read-only and reserved registers have none (R31). -/
def State.writeReg (r : Reg) (v : Word) (s : State) : State :=
  match r with
  | .ctrl => s.accept v
  | .data k => s.storeData k v
  | .status => s
  | .countLo => s
  | .countHi => s
  | .stateA => s
  | .stateB => s
  | .stateC => s
  | .stateD => s
  | .reserved => s

/-- BusRead(off, width) (R52, R53). -/
def State.busRead (off width : Nat) (s : State) : Except Fault (Word × State) :=
  match accessFault off width with
  | some f => .error f
  | none => .ok (s.readReg (regAt off))

/-- BusWrite(off, width, v) (R52, R53). -/
def State.busWrite (off width : Nat) (v : Word) (s : State) : Except Fault State :=
  match accessFault off width with
  | some f => .error f
  | none => .ok (s.writeReg (regAt off) v)

/-- R55, R56: the byte a host finds at a bus address, byte lane (offset mod 4) of the 32-bit read there; none outside
the window (R51). -/
def State.busByte (addr : Nat) (s : State) : Option Byte :=
  match windowOffset addr with
  | none => none
  | some off =>
    match s.busRead (4 * (off / 4)) 4 with
    | .ok (v, _) => some (byteLane v (off % 4))
    | .error _ => none

end Sys2Proof.Machine
end

