-- ==== Sys2Proof/Machine/HostAgent.lean ====
section
/-! DEFINITION. The host agent (R7): what one statement of its program does (R80), and the expansions of the
pseudo-instructions (R81 to R83). That the host is data in State is log entry 10. -/

namespace Sys2Proof.Machine

/-- The value of the host temporary $t: the one last read into it (R79, R80); none if nothing has been. -/
def State.temp (t : Nat) (s : State) : Option Word := s.reads.lookup t

/-- R80: one statement, with the statements after it. POLL stays until a STATUS read shows BUSY = 0. -/
def HostOp.run (op : HostOp) (rest : List HostOp) (s : State) : Host.Outcome State Fault Refusal :=
  match op with
  | .read off width t =>
    match s.busRead off width with
    | .error f => .fault f
    | .ok (v, s') => .next { s' with host := rest, reads := (t, v) :: s'.reads }
  | .write off width v =>
    match s.busWrite off width v with
    | .error f => .fault f
    | .ok s' => .next { s' with host := rest }
  | .poll =>
    match s.busRead 0x04 4 with
    | .error f => .fault f
    | .ok (_, s') => .next (if s.busy then s' else { s' with host := rest })
  | .expect t imm => .next { s with host := rest, checks := s.checks ++ [s.temp t == some imm] }

/-- The host's turn: its next statement, or nothing when its program has ended (R178, R191). -/
def hostTurn (s : State) : Host.Outcome State Fault Refusal :=
  match s.host with
  | [] => .next s
  | op :: rest => op.run rest s

/-! ## Host programs -/

/-- `WR reg, imm` at a register's offset (R80). -/
def wr (off : Nat) (v : Word) : HostOp := .write off 4 v

/-- `RD reg -> $t` at a register's offset (R80). -/
def rd (off t : Nat) : HostOp := .read off 4 t

/-- `REPEAT k` ... `END` (R80). -/
def repeatOps (k : Nat) (body : List HostOp) : List HostOp := (List.replicate k body).flatten

/-- R81: `NOP`. -/
def pseudoNop : List HostOp := [wr 0x00 0x00000000, .poll]

/-- R81: `INIT`. -/
def pseudoInit : List HostOp := [wr 0x00 0x00000001, .poll]

/-- R81: `ABSORB n`, 0 ≤ n ≤ 64. -/
def pseudoAbsorb (n : Nat) : List HostOp := [wr 0x00 (BitVec.ofNat 32 (n * 0x100 + 0x02)), .poll]

/-- R81: `FINAL`. -/
def pseudoFinal : List HostOp := [wr 0x00 0x00000003, .poll]

/-- R82: the k-th word of a byte string padded with zero bytes to a multiple of 4. -/
def loadWord (bytes : List Byte) (k : Nat) : Word :=
  le32 (bytes.getD (4 * k) 0) (bytes.getD (4 * k + 1) 0) (bytes.getD (4 * k + 2) 0) (bytes.getD (4 * k + 3) 0)

/-- R82: `LOAD s`, |s| ≤ 64. -/
def pseudoLoad (bytes : List Byte) : List HostOp :=
  (List.range ((bytes.length + 3) / 4)).map fun k => wr (dataOffset k) (loadWord bytes k)

/-- R83: LOAD and ABSORB for each of n 64-byte slices (the last may be shorter), in order. -/
def absorbSlices : Nat → List Byte → List HostOp
  | 0, _ => []
  | n + 1, bytes =>
    pseudoLoad (bytes.take 64) ++ pseudoAbsorb (bytes.take 64).length ++ absorbSlices n (bytes.drop 64)

/-- R83: `HASH s`; the four digest words go to $t0 .. $t3. -/
def pseudoHash (bytes : List Byte) : List HostOp :=
  pseudoInit ++ absorbSlices ((bytes.length + 63) / 64) bytes ++ pseudoFinal
    ++ [rd 0x10 0, rd 0x14 1, rd 0x18 2, rd 0x1C 3]

end Sys2Proof.Machine
end

