-- ==== Sys2Proof/Machine/Step.lean ====
section
/-! DEFINITION. One step of the machine: one event of the total order of R61 (a host statement, an engine step, a
reset), or, in a state inside a COMPRESS, one compression step. -/

namespace Sys2Proof.Machine

/-- The engine's turn (R121): enabled exactly when BUSY = 1, it executes PEND whole; otherwise nothing happens. -/
def engineTurn (s : State) : Host.Outcome State Fault Refusal :=
  if s.busy then
    match s.pend with
    | some p => exec p.instr s
    | none => .fault .pendMissing
  else .next s

/-- One step of the compressor in a state inside a COMPRESS: the step that STEP selects (R78), and after step 63 the end
of COMPRESS (R105). -/
def compressorTurn (s : State) : Host.Outcome State Fault Refusal :=
  match exec (decodeStep s.work.step) s with
  | .next t => .next (t.afterStep s.work.step)
  | .fault f => .fault f
  | .refused r => .refused r

/-- One step. No host access falls inside a COMPRESS (R57), so there the compressor moves. Otherwise the next turn laid
down decides; when none is, the engine moves if a command is pending (R62: every accepted command is executed), and
else the host. -/
def step (s : State) : Host.Outcome State Fault Refusal :=
  if s.compressing then compressorTurn s
  else
    match s.sched with
    | [] => if s.busy then engineTurn s else hostTurn s
    | .host :: rest => hostTurn (s.took rest)
    | .engine :: rest => engineTurn (s.took rest)
    | .reset :: rest => .next (s.took rest).resetEngine

/-! ## Where an instruction comes from

The engine fetches nothing (R39). A command is executed from PEND, where the acceptance of its CTRL write has put it; a
step kind is decoded from STEP inside a COMPRESS. -/

/-- The turn `t` stands next, when the turns laid down are not used up. -/
def State.nextTurn (t : Turn) (s : State) : State :=
  if s.sched = [] then s else { s with sched := t :: s.sched }

/-- s with the command word v accepted and the engine to move; a word that decodes to no command is instead the host's
next write to CTRL, whose acceptance raises the error. -/
def State.withCommand (v : Word) (s : State) : State :=
  match decodeCommand v with
  | .nop => ({ s with compressing := false }.nextTurn .engine).setPending .nop
  | .init => ({ s with compressing := false }.nextTurn .engine).setPending .init
  | .absorb len => ({ s with compressing := false }.nextTurn .engine).pendAbsorb len
  | .final => ({ s with compressing := false }.nextTurn .engine).setPending .final
  | .illegal => { s with compressing := false, host := wr 0x00 v :: s.host, sched := .host :: s.sched }
  | .badLen => { s with compressing := false, host := wr 0x00 v :: s.host, sched := .host :: s.sched }

/-- s with the instruction where step takes its next instruction from: a table word of at most 8 bits is a step index
and goes to STEP inside a COMPRESS; every other word is a command word. -/
def State.withFetchWord (s : State) (nbits w : Nat) : State :=
  if nbits ≤ 8 then { s with work := { s.work with step := BitVec.ofNat 6 w }, compressing := true }
  else s.withCommand (BitVec.ofNat 32 w)

end Sys2Proof.Machine
end

