-- ==== Sys2Proof/Machine/Reference.lean ====
section
/-! DEFINITION. The spec's algorithm as pure functions, for statements to compare the machine with: COMPRESS as the loop
of R105, the named-variable form of R106, the compression of a stream of blocks (R128), and the digest of a message
(R147). No register, no command and no step counter stands in them. -/

namespace Sys2Proof.Machine

/-- R95: fun(r), by the round r = i div 16. -/
def refRound (i : Nat) : Word → Word → Word → Word :=
  if i < 16 then roundF else if i < 32 then roundG else if i < 48 then roundH else roundI

/-- R105, the loop's body for i, on (a, b, c, d). -/
def refStep (x : Vector Word 16) (w : Chain) (i : Nat) : Chain :=
  let k := BitVec.ofNat 6 i
  let t := w.a + refRound i w.b w.c w.d + constK k + x[msgIndex k]
  { a := w.d, b := w.b + rotl t (rotAmount k), c := w.b, d := w.c }

/-- R105: the working registers after the first n steps. -/
def refSteps (n : Nat) (h : Chain) (blk : Vector Byte 64) : Chain := (List.range n).foldl (refStep (parseBlock blk)) h

/-- R105: the word-wise sum, modulo 2^32. -/
def Chain.plus (h w : Chain) : Chain := { a := h.a + w.a, b := h.b + w.b, c := h.c + w.c, d := h.d + w.d }

/-- R105: COMPRESS as a pure function. -/
def refCompress (h : Chain) (blk : Vector Byte 64) : Chain := h.plus (refSteps 64 h blk)

/-- R106: the slot (k - i) mod 4 of the named variables A, B, C, D; k = 0 is the one that step i updates. -/
def namedSlot (i k : Nat) : Fin 4 := Fin.ofNat 4 (k + 3 * i)

/-- R106: step i on the named variables. -/
def namedStep (x : Vector Word 16) (v : Vector Word 4) (i : Nat) : Vector Word 4 :=
  let k := BitVec.ofNat 6 i
  let b := v[namedSlot i 1]
  let t := v[namedSlot i 0] + refRound i b v[namedSlot i 2] v[namedSlot i 3] + constK k + x[msgIndex k]
  v.set (namedSlot i 0).val (b + rotl t (rotAmount k))

/-- R106: the named variables after the first n steps, started from the chaining state. -/
def namedSteps (n : Nat) (h : Chain) (blk : Vector Byte 64) : Vector Word 4 :=
  (List.range n).foldl (namedStep (parseBlock blk)) #v[h.a, h.b, h.c, h.d]

/-- R128: COMPRESS on the first n 64-byte blocks of a byte string, in order. -/
def refBlocks : Nat → List Byte → Chain → Chain
  | 0, _, h => h
  | n + 1, bytes, h => refBlocks n (bytes.drop 64) (refCompress h (blockOf bytes))

/-- R141, R142: the padding of a message of `len` bytes: 0x80, zero bytes up to 8 short of a block's end, the bit length
in eight bytes, the least significant first. -/
def refPadding (len : Nat) : List Byte :=
  0x80#8 :: List.replicate ((119 - len % 64) % 64) 0x00#8
    ++ (List.range 8).map fun j => BitVec.ofNat 8 (8 * len / 256 ^ j)

/-- R147: the final chaining state of a message. -/
def refMd5 (message : List Byte) : Chain :=
  let padded := message ++ refPadding message.length
  refBlocks (padded.length / 64) padded Chain.iv

/-! ## The per-step table of R108: kind, g(i), S and K[i], by round -/

/-- R108, the rows of STEP_F. -/
def stepTableF : List (StepKind × Nat × Nat × Word) := [
  (.F, 0, 7, 0xd76aa478), (.F, 1, 12, 0xe8c7b756), (.F, 2, 17, 0x242070db), (.F, 3, 22, 0xc1bdceee),
  (.F, 4, 7, 0xf57c0faf), (.F, 5, 12, 0x4787c62a), (.F, 6, 17, 0xa8304613), (.F, 7, 22, 0xfd469501),
  (.F, 8, 7, 0x698098d8), (.F, 9, 12, 0x8b44f7af), (.F, 10, 17, 0xffff5bb1), (.F, 11, 22, 0x895cd7be),
  (.F, 12, 7, 0x6b901122), (.F, 13, 12, 0xfd987193), (.F, 14, 17, 0xa679438e), (.F, 15, 22, 0x49b40821)]

/-- R108, the rows of STEP_G. -/
def stepTableG : List (StepKind × Nat × Nat × Word) := [
  (.G, 1, 5, 0xf61e2562), (.G, 6, 9, 0xc040b340), (.G, 11, 14, 0x265e5a51), (.G, 0, 20, 0xe9b6c7aa),
  (.G, 5, 5, 0xd62f105d), (.G, 10, 9, 0x02441453), (.G, 15, 14, 0xd8a1e681), (.G, 4, 20, 0xe7d3fbc8),
  (.G, 9, 5, 0x21e1cde6), (.G, 14, 9, 0xc33707d6), (.G, 3, 14, 0xf4d50d87), (.G, 8, 20, 0x455a14ed),
  (.G, 13, 5, 0xa9e3e905), (.G, 2, 9, 0xfcefa3f8), (.G, 7, 14, 0x676f02d9), (.G, 12, 20, 0x8d2a4c8a)]

/-- R108, the rows of STEP_H. -/
def stepTableH : List (StepKind × Nat × Nat × Word) := [
  (.H, 5, 4, 0xfffa3942), (.H, 8, 11, 0x8771f681), (.H, 11, 16, 0x6d9d6122), (.H, 14, 23, 0xfde5380c),
  (.H, 1, 4, 0xa4beea44), (.H, 4, 11, 0x4bdecfa9), (.H, 7, 16, 0xf6bb4b60), (.H, 10, 23, 0xbebfbc70),
  (.H, 13, 4, 0x289b7ec6), (.H, 0, 11, 0xeaa127fa), (.H, 3, 16, 0xd4ef3085), (.H, 6, 23, 0x04881d05),
  (.H, 9, 4, 0xd9d4d039), (.H, 12, 11, 0xe6db99e5), (.H, 15, 16, 0x1fa27cf8), (.H, 2, 23, 0xc4ac5665)]

/-- R108, the rows of STEP_I. -/
def stepTableI : List (StepKind × Nat × Nat × Word) := [
  (.I, 0, 6, 0xf4292244), (.I, 7, 10, 0x432aff97), (.I, 14, 15, 0xab9423a7), (.I, 5, 21, 0xfc93a039),
  (.I, 12, 6, 0x655b59c3), (.I, 3, 10, 0x8f0ccc92), (.I, 10, 15, 0xffeff47d), (.I, 1, 21, 0x85845dd1),
  (.I, 8, 6, 0x6fa87e4f), (.I, 15, 10, 0xfe2ce6e0), (.I, 6, 15, 0xa3014314), (.I, 13, 21, 0x4e0811a1),
  (.I, 4, 6, 0xf7537e82), (.I, 11, 10, 0xbd3af235), (.I, 2, 15, 0x2ad7d2bb), (.I, 9, 21, 0xeb86d391)]

end Sys2Proof.Machine
end

