-- ==== Sys2Proof/Safety.lean ====
section
/-! DEFINITION. The terms that statements about the machine use: the invariant of 10_state.md section 8, which event a
step is, states that differ only in stale bytes of BUF, host programs without bus errors, and the execution of a
message given in chunks. -/

namespace Sys2Proof.Machine

/-- What every state between two events satisfies: R30 (BUSY and PEND), R23 and R43 (POS and COUNT), R44 (DONE), R160
(ERRCODE), R26 and R168 (the bound on COUNT), R36 (no compression under way), R9 (MAX_BYTES). -/
structure State.Inv (s : State) : Prop where
  notCompressing : s.compressing = false
  busyIffPending : s.busy = s.pend.isSome
  pendingLength : ∀ len bytes, s.pend = some (.absorb len bytes) → len.toNat ≤ 64 ∧ bytes.length = len.toNat
  pendingFresh : s.pend = some .final ∨ (∃ len bytes, s.pend = some (.absorb len bytes)) → s.done = false
  pendingFits : ∀ len bytes, s.pend = some (.absorb len bytes) → s.count.toNat + len.toNat ≤ s.params.maxBytes
  posOfCount : s.count.toNat % 64 = s.pos.toNat
  posOfDone : s.done = true → s.pos = 0
  errcodeKnown : s.errcode.toNat ≤ 5
  errcodeOfErr : s.err = true ↔ s.errcode ≠ 0
  maxBytesLegal : s.params.maxBytes ≤ 2 ^ 61 - 1
  countBound : s.count.toNat ≤ s.params.maxBytes + (if s.done then 72 else 0)

/-- The event that a step from a state is (R61). -/
inductive Event where
  /-- One compression step, of index i, inside a COMPRESS. -/
  | compressor (i : BitVec 6)
  /-- The engine executes the pending command (R121). -/
  | engine (p : Pending)
  /-- An engine's turn with nothing to execute. -/
  | engineIdle
  /-- One statement of the host. -/
  | host (op : HostOp)
  /-- A host's turn after its program has ended. -/
  | hostIdle
  /-- The platform's reset (R180). -/
  | reset
deriving DecidableEq, Repr

/-- The event of an engine's turn. -/
def State.engineEvent (s : State) : Event :=
  if s.busy then
    match s.pend with
    | some p => .engine p
    | none => .engineIdle
  else .engineIdle

/-- The event of a host's turn. -/
def State.hostEvent (s : State) : Event :=
  match s.host with
  | [] => .hostIdle
  | op :: _ => .host op

/-- The event of the next step. -/
def State.event (s : State) : Event :=
  if s.compressing then .compressor s.work.step
  else
    match s.sched with
    | [] => if s.busy then s.engineEvent else s.hostEvent
    | .host :: _ => s.hostEvent
    | .engine :: _ => s.engineEvent
    | .reset :: _ => .reset

/-- A host statement that gets no bus error (R52, R53). -/
def HostOp.legal : HostOp → Bool
  | .read off width _ => (accessFault off width).isNone
  | .write off width _ => (accessFault off width).isNone
  | .poll => true
  | .expect _ _ => true

/-- Two states that agree in everything but the stale bytes BUF[POS .. 64) (R24). -/
def SameButStale (s t : State) : Prop :=
  t = { s with buf := t.buf } ∧ ∀ i : Fin 64, i.val < s.pos.toNat → t.buf[i] = s.buf[i]

/-- Two outcomes of the same kind, with related next states or the same reason. -/
def SameOutcome (r : State → State → Prop) : Host.Outcome State Fault Refusal → Host.Outcome State Fault Refusal → Prop
  | .next s, .next t => r s t
  | .fault f, .fault g => f = g
  | .refused p, .refused q => p = q
  | _, _ => False

/-- The occupied bytes BUF[0 .. POS) (R24). -/
def State.tail (s : State) : List Byte := s.buf.toList.take s.pos.toNat

/-- ABSORB executed on each chunk in turn, each as the command PEND then holds (R123, R129). -/
def absorbChunks : List (List Byte) → State → Host.Outcome State Fault Refusal
  | [], s => .next s
  | chunk :: chunks, s =>
    let len := BitVec.ofNat 7 chunk.length
    match exec (.absorb len) (s.setPending (.absorb len chunk)) with
    | .next t => absorbChunks chunks t
    | .fault f => .fault f
    | .refused r => .refused r

/-- INIT, an ABSORB of each chunk, FINAL (R184). -/
def hashChunks (chunks : List (List Byte)) (s : State) : Host.Outcome State Fault Refusal :=
  match exec .init s with
  | .next t =>
    match absorbChunks chunks t with
    | .next u => exec .final u
    | o => o
  | o => o

end Sys2Proof.Machine
end

