-- ==== Sys2Proof/Certificates/Slice0/Obligations.lean ====
section
/-! DEFINITION. The statements about the machine, in the order of the spec's files. Each docstring names the rules it
formalises; where a clause is the model's choice it says so and names the log entry. -/

open Sys2Proof Sys2Proof.Machine

/-! ## Encoding -/

/-- V30-1, R76, R78: words written out from the spec's encoding decode to the instruction they stand for, and the
reserved ones to none. -/
def Obligations.DecoderReadsTheSpecsWords : Prop :=
  decodeTableWord 32 0x00000000 = some .nop ∧
  decodeTableWord 32 0x00000001 = some .init ∧
  decodeTableWord 32 0x00000302 = some (.absorb 3) ∧
  decodeTableWord 32 0x00004002 = some (.absorb 64) ∧
  decodeTableWord 32 0x00000003 = some .final ∧
  decodeTableWord 8 0b00001111 = some (.stepF 15) ∧
  decodeTableWord 8 0b00010000 = some (.stepG 0) ∧
  decodeTableWord 8 0b00100101 = some (.stepH 5) ∧
  decodeTableWord 8 0b00111111 = some (.stepI 15) ∧
  decodeTableWord 32 0x00004102 = none ∧
  decodeTableWord 32 0x00000004 = none ∧
  decodeTableWord 32 0x00000012 = none ∧
  decodeTableWord 32 0x00008002 = none ∧
  decodeTableWord 32 0x00000101 = none

/-- R76, R78: decoding the encoding of a well-formed instruction gives it back, for every value of every operand. -/
def Obligations.DecodeOfEncodeGivesTheInstruction : Prop :=
  ∀ i : Instr, i.wf = true → decodeBytes (encode i) = .ok i

/-- R73, R74, R78: every byte list that decodes is the encoding of the instruction it decodes to, which is well
formed: no two encodings stand for one instruction, and no ill-formed instruction is ever decoded. That a step index is
one byte with bits 7:6 zero, and that a byte with one of them set decodes to nothing, is the model's choice, as STEP is
never stored (log entry 12). -/
def Obligations.DecodedBytesAreTheEncoding : Prop :=
  ∀ (bytes : List Byte) (i : Instr), decodeBytes bytes = .ok i → encode i = bytes ∧ i.wf = true

/-- R73, R75: what each of the 2^32 words decodes to; an illegal word raises ILLEGAL_CMD at acceptance, a bad length
BAD_LEN (on a context that accepts an ABSORB at all, R169), and neither has any other effect. -/
def Obligations.EveryCommandWordIsDecodedAsTheRuleSays : Prop :=
  (∀ v : Word,
    let op := v.extractLsb' 0 4
    let len := v.extractLsb' 8 7
    let reserved := v.extractLsb' 4 4 ≠ 0 ∨ v.extractLsb' 15 17 ≠ 0
    (decodeCommand v = .illegal ↔ reserved ∨ 4 ≤ op.toNat ∨ (op ≠ 2 ∧ len ≠ 0)) ∧
    (decodeCommand v = .nop ↔ v = 0x00000000) ∧
    (decodeCommand v = .init ↔ v = 0x00000001) ∧
    (decodeCommand v = .final ↔ v = 0x00000003) ∧
    (decodeCommand v = .badLen ↔ ¬ reserved ∧ op = 2 ∧ 65 ≤ len.toNat) ∧
    (∀ n : BitVec 7, decodeCommand v = .absorb n ↔ n.toNat ≤ 64 ∧ v.toNat = 2 + n.toNat * 0x100)) ∧
  (∀ (v : Word) (s : State), s.busy = false → s.err = false → decodeCommand v = .illegal →
    s.accept v = { s with err := true, errcode := 1 }) ∧
  (∀ (v : Word) (s : State), s.busy = false → s.err = false → s.done = false → decodeCommand v = .badLen →
    s.accept v = { s with err := true, errcode := 2 })

/-! ## The step function of the machine -/

/-- R121: the engine's turn, enabled exactly when BUSY = 1, executes PEND whole: one step is `exec` of the command that
PEND holds, and what each of the four does is written out; with BUSY = 0 the turn passes and nothing else happens.
`s.sched` is the model's own record of whose turn it is (log entry 3). -/
def Obligations.EngineStepExecutesThePendingCommand : Prop :=
  (∀ (s : State) (rest : List Turn) (p : Pending), s.compressing = false → s.busy = true → s.pend = some p →
    (s.sched = .engine :: rest → step s = exec p.instr { s with sched := rest }) ∧
    (s.sched = [] → step s = exec p.instr s)) ∧
  (∀ (s : State) (rest : List Turn), s.compressing = false → s.busy = false → s.sched = .engine :: rest →
    step s = .next { s with sched := rest }) ∧
  (∀ s : State,
    exec .nop s = .next { s with pend := none, busy := false } ∧
    exec .init s = .next { s.clearError.freshContext with pend := none, busy := false } ∧
    (∀ len bytes, s.pend = some (.absorb len bytes) → bytes.length = len.toNat →
      exec (.absorb len) s = .next { s.update bytes with pend := none, busy := false }) ∧
    exec .final s = .next { s.finalize with pend := none, busy := false })

/-- A step runs the decoded instruction (commands): when a word decodes to an instruction, the very next step of the
state that holds it is `exec` of that instruction, the engine's turn taken. That a word stands in PEND by
`withFetchWord` is the model's reading of R30 and R39 (log entry 8). -/
def Obligations.StepRunsTheDecodedCommand : Prop :=
  ∀ (s : State) (nbits w : Nat) (i : Instr), 8 < nbits → w < 2 ^ 32 → decodeTableWord nbits w = some i →
    step (s.withFetchWord nbits w) = exec i { s.withFetchWord nbits w with sched := s.sched }

/-- A step runs the decoded instruction (step kinds, R78): inside a COMPRESS the next step is `exec` of the instruction
that STEP selects, and after step 63 the feed-forward ends the COMPRESS (R39, R105). That such states are states of
the model is log entry 2. -/
def Obligations.StepRunsTheStepThatStepSelects : Prop :=
  (∀ s : State, s.compressing = true →
    ∃ t, exec (decodeStep s.work.step) s = .next t ∧
      step s = .next (if s.work.step = 63 then { t with chain := t.chain.feed t.work, compressing := false } else t)) ∧
  (∀ (s : State) (w : Nat) (i : Instr), decodeTableWord 8 w = some i →
    (s.withFetchWord 8 w).compressing = true ∧ decodeStep (s.withFetchWord 8 w).work.step = i)

/-- R120, R121: a command goes through its two phases in two steps: the host's write to CTRL puts into PEND the
command that the word decodes to, and the engine's step then executes that command. -/
def Obligations.AcceptedCommandIsTheOneExecuted : Prop :=
  ∀ (s : State) (v : Word) (rest : List HostOp) (p : Pending),
    s.compressing = false → s.sched = [] → s.busy = false → s.pend = none → s.host = .write 0x00 4 v :: rest →
    (s.accept v).pend = some p →
    step s = .next { s.accept v with host := rest } ∧
    (decodeCommand v).toInstr = .ok p.instr ∧
    step { s.accept v with host := rest } = exec p.instr { s.accept v with host := rest }

/-! ## Architectural state -/

/-- R21: the chaining state changes only in a reset, in the execution of INIT, ABSORB or FINAL, or at the end of a
COMPRESS seen step by step (log entry 2). -/
def Obligations.ChainingStateChangesOnlyAsTheRuleSays : Prop :=
  ∀ s t : State, step s = .next t → t.chain ≠ s.chain →
    s.event = .reset ∨ s.event = .engine .init ∨ (∃ len bytes, s.event = .engine (.absorb len bytes)) ∨
    s.event = .engine .final ∨ s.event = .compressor 63

/-- R24: no rule reads a stale byte: two states that differ only in BUF[POS .. 64) answer steps of the same kind, and
the states after them again differ only in stale bytes. -/
def Obligations.StaleBytesAreNeverRead : Prop :=
  ∀ s t : State, SameButStale s t → SameOutcome SameButStale (step s) (step t)

/-- R26: between INITs and resets COUNT never decreases, and it never exceeds 2^61 + 71. -/
def Obligations.CountNeverDecreasesBetweenInits : Prop :=
  ∀ s t : State, s.Inv → step s = .next t → s.event ≠ .reset → s.event ≠ .engine .init →
    s.count.toNat ≤ t.count.toNat ∧ t.count.toNat ≤ 2 ^ 61 + 71

/-- R28: FINAL sets DONE; INIT and reset clear it; nothing else writes it. -/
def Obligations.DoneIsSetByFinalAndClearedByInitAndReset : Prop :=
  ∀ s t : State, step s = .next t →
    (s.event = .engine .final → t.done = true) ∧
    (s.event = .engine .init ∨ s.event = .reset → t.done = false) ∧
    (s.event ≠ .engine .final → s.event ≠ .engine .init → s.event ≠ .reset → t.done = s.done)

/-- R29: ERR and ERRCODE are written only by error recording, which sets them only while ERR = 0, at a host write to
CTRL, and by INIT and reset, which clear both. -/
def Obligations.FirstErrorStaysUntilInitOrReset : Prop :=
  ∀ s t : State, step s = .next t →
    (s.event = .engine .init ∨ s.event = .reset → t.err = false ∧ t.errcode = 0) ∧
    (s.event ≠ .engine .init → s.event ≠ .reset → s.err = true → t.err = true ∧ t.errcode = s.errcode) ∧
    (s.event ≠ .engine .init → s.event ≠ .reset → (t.err ≠ s.err ∨ t.errcode ≠ s.errcode) →
      s.err = false ∧ t.err = true ∧ ∃ width v, s.event = .host (.write 0x00 width v))

/-- R32: window byte j is DATA(j div 4)[8(j mod 4) + 7 : 8(j mod 4)]; only the host writes DATA (a reset makes it ANY
again, R180); a read returns the last value written; ABSORB n takes window bytes 0 .. n-1 and no others. -/
def Obligations.DataWindowIsLittleEndianAndOnlyTheHostsToWrite : Prop :=
  (∀ (words : Vector Word 16) (j : Fin 64),
    (windowBytes words)[j.val]? = some (words[j.val / 4].extractLsb' (8 * (j.val % 4)) 8)) ∧
  (∀ s t : State, step s = .next t → (t.data ≠ s.data ∨ t.written ≠ s.written) →
    s.event = .reset ∨ ∃ off width v, 0x40 ≤ off ∧ s.event = .host (.write off width v)) ∧
  (∀ (s : State) (k : Fin 16) (v : Word),
    ∃ t, s.busWrite (0x40 + 4 * k.val) 4 v = .ok t ∧ t.busRead (0x40 + 4 * k.val) 4 = .ok (v, t)) ∧
  (∀ (s : State) (n : Nat) (words : Vector Word 16), n ≤ 64 → (∀ k : Fin 16, 4 * k.val < n → s.written[k] = true) →
    (∀ k : Fin 16, 4 * k.val < n → words[k] = s.data[k]) → s.snapshot n = (windowBytes words).take n)

/-- R33: the fields of STATUS, bit by bit; POS reads exactly when BUSY = 0, and when BUSY = 1 only the other fields do;
after reset STATUS reads 0. -/
def Obligations.StatusShowsTheFlags : Prop :=
  (∀ s : State, ∃ (v : Word) (t : State), s.busRead 0x04 4 = .ok (v, t) ∧
    v.extractLsb' 0 1 = BitVec.ofBool s.busy ∧
    v.extractLsb' 1 1 = BitVec.ofBool s.done ∧
    v.extractLsb' 2 1 = BitVec.ofBool s.err ∧
    v.extractLsb' 3 1 = 0 ∧
    v.extractLsb' 4 4 = s.errcode ∧
    v.extractLsb' 14 18 = 0 ∧
    (s.busy = false → v.extractLsb' 8 6 = s.pos)) ∧
  State.reset.busRead 0x04 4 = .ok (0, State.reset)

/-- R35, R55: with BUSY = 0 the 16 bytes at bus addresses MD5_BASE + 0x10 .. MD5_BASE + 0x1F, in address order, are the
bytes le32bytes(STATE_A) ++ le32bytes(STATE_B) ++ le32bytes(STATE_C) ++ le32bytes(STATE_D), which when DONE = 1 are the
digest. -/
def Obligations.DigestBytesStandInAddressOrder : Prop :=
  ∀ (s : State) (j : Nat), s.busy = false → j < 16 →
    s.busByte (Config.md5Base + 0x10 + j) =
      (le32bytes s.chain.a ++ le32bytes s.chain.b ++ le32bytes s.chain.c ++ le32bytes s.chain.d)[j]?

/-- R37: no internal or intermediate value is observable while BUSY = 1: what any read of the window returns does not
depend on the chaining state, BUF, POS, COUNT or the compressor's internals. -/
def Obligations.NothingInternalIsReadWhileBusy : Prop :=
  ∀ (s : State) (chain : Chain) (buf : Vector Byte 64) (pos : BitVec 6) (count : BitVec 64) (work : Work)
    (off width : Nat), s.busy = true →
    (s.busRead off width).map Prod.fst =
      ({ s with chain := chain, buf := buf, pos := pos, count := count, work := work }.busRead off width).map Prod.fst

/-- R43, R44, R30 and the rest of `State.Inv` hold in the state after reset. -/
def Obligations.ContextInvariantHoldsAtReset : Prop := State.reset.Inv

/-- R43, R44, R30: every step keeps the invariant: COUNT mod 64 = POS; DONE = 1 implies POS = 0; BUSY = 1 exactly when
PEND holds a command; a pending ABSORB holds exactly its LEN bytes and fits under MAX_BYTES; ERRCODE is 0 to 5 and 0
exactly when ERR = 0. -/
def Obligations.EveryStepKeepsTheContextInvariant : Prop :=
  ∀ s t : State, s.Inv → step s = .next t → t.Inv

/-! ## The register window -/

/-- R52: what each legal access of the window does: a write to CTRL is Accept, a write to DATAk stores it, every other
write has no effect; a read returns the register of the map of R31, ANY where R37 says so, and changes no register.
`written` and `draws` are the model's own records (log entries 6 and 4). -/
def Obligations.WindowReadsAndWritesFollowTheRegisterMap : Prop :=
  ∀ s : State,
    (∀ v, s.busWrite 0x00 4 v = .ok (s.accept v)) ∧
    (∀ (k : Fin 16) (v : Word), s.busWrite (0x40 + 4 * k.val) 4 v =
      .ok { s with data := s.data.set k.val v, written := s.written.set k.val true }) ∧
    (∀ off v, off % 4 = 0 → 0x04 ≤ off → off ≤ 0x3C → s.busWrite off 4 v = .ok s) ∧
    (∀ off, off % 4 = 0 → off ≤ 0x7C → ∃ v t, s.busRead off 4 = .ok (v, t) ∧ t = { s with draws := t.draws }) ∧
    (∃ t, s.busRead 0x00 4 = .ok (0, t)) ∧
    (∀ off, off % 4 = 0 → 0x20 ≤ off → off ≤ 0x3C → ∃ t, s.busRead off 4 = .ok (0, t)) ∧
    (∃ pos t, s.busRead 0x04 4 = .ok (s.statusWith pos, t) ∧ (s.busy = false → pos = s.pos)) ∧
    (s.busy = false →
      s.busRead 0x08 4 = .ok (s.count.extractLsb' 0 32, s) ∧
      s.busRead 0x0C 4 = .ok (s.count.extractLsb' 32 32, s) ∧
      s.busRead 0x10 4 = .ok (s.chain.a, s) ∧
      s.busRead 0x14 4 = .ok (s.chain.b, s) ∧
      s.busRead 0x18 4 = .ok (s.chain.c, s) ∧
      s.busRead 0x1C 4 = .ok (s.chain.d, s)) ∧
    (∀ k : Fin 16, s.written[k] = true → s.busRead (0x40 + 4 * k.val) 4 = .ok (s.data[k], s))

/-- R53, R167: an access to the window of a width other than 4, or at an offset that is no multiple of 4, gets a bus
error, read or write: a fault of the host's access, with no next state. That it is the outcome fault of the host's step,
stated here where no turns are laid down and BUSY = 0, is the model's form of "a fault of the host program", and that an
access at an offset of 0x80 or more is the fault outsideWindow is the model's choice, as R51 leaves those addresses to
the platform (both log entry 9). -/
def Obligations.OnlyAlignedWordAccessesAreServed : Prop :=
  (∀ (s : State) (off width : Nat) (v : Word), off < 0x80 → (width ≠ 4 ∨ off % 4 ≠ 0) →
    s.busRead off width = .error .busError ∧ s.busWrite off width v = .error .busError) ∧
  (∀ (s : State) (off width : Nat) (v : Word), 0x80 ≤ off →
    s.busRead off width = .error .outsideWindow ∧ s.busWrite off width v = .error .outsideWindow) ∧
  (∀ (s : State) (off width t : Nat) (v : Word) (rest : List HostOp),
    s.compressing = false → s.sched = [] → s.busy = false → off < 0x80 → (width ≠ 4 ∨ off % 4 ≠ 0) →
    (s.host = .read off width t :: rest ∨ s.host = .write off width v :: rest) → step s = .fault .busError)

/-- R58: a host's read changes nothing of the engine: after it the state differs in the host's program, the turns, the
host's read log and the count of free values drawn only. Writing one value to a DATA register twice is writing it once. -/
def Obligations.ReadsHaveNoSideEffects : Prop :=
  (∀ (s t : State) (off width k : Nat), s.event = .host (.read off width k) → step s = .next t →
    t = { s with host := t.host, sched := t.sched, reads := t.reads, draws := t.draws }) ∧
  (∀ (s t u : State) (k : Fin 16) (v : Word), s.busWrite (0x40 + 4 * k.val) 4 v = .ok t →
    t.busWrite (0x40 + 4 * k.val) 4 v = .ok u → u = t)

/-- R62, the model's form of weak fairness (log entry 3): from a state with a command pending and a host program
without bus errors, the command is executed (or discarded by a reset) after at most one step more than there are turns
laid down. -/
def Obligations.AcceptedCommandIsExecutedInTime : Prop :=
  ∀ s : State, s.Inv → s.busy = true → (∀ op ∈ s.host, op.legal = true) →
    ∃ k t, k ≤ s.sched.length + 1 ∧ Host.Core.run core k s = .next t ∧ t.busy = false

/-- R63: an accepted ABSORB's operand bytes are the window as it stands at acceptance, with every DATA register reading
the value last written to it, and no later DATA write affects the pending command: executing it after the write is
writing after executing it. -/
def Obligations.LaterDataWritesDoNotReachAPendingCommand : Prop :=
  (∀ (s : State) (v : Word) (len : BitVec 7) (bytes : List Byte), s.busy = false → s.pend = none →
    (s.accept v).pend = some (.absorb len bytes) → bytes = (windowBytes s.windowWords).take len.toNat) ∧
  (∀ (s : State) (k : Fin 16) (v : Word), (s.writeReg (.data k) v).windowWords = s.windowWords.set k.val v) ∧
  (∀ (s t : State) (p : Pending) (k : Fin 16) (v : Word), s.pend = some p → exec p.instr s = .next t →
    exec p.instr (s.writeReg (.data k) v) = .next (t.writeReg (.data k) v))

/-! ## The Block Compressor -/

/-- R90: bit k of ROTL(x, s) is bit (k - s) mod 32 of x, for 0 ≤ s ≤ 31; every amount a step uses is in 4..23. -/
def Obligations.RotlMovesEveryBit : Prop :=
  (∀ (x : Word) (s k : Nat), s ≤ 31 → k < 32 → (rotl x s).getLsbD k = x.getLsbD ((k + 32 - s) % 32)) ∧
  (∀ x : Word, rotl x 0 = x) ∧
  (∀ i : BitVec 6, 4 ≤ rotAmount i ∧ rotAmount i ≤ 23)

/-- R91 to R94: each bit of F, G, H and I, from the bits of b, c and d; and STEP[5:4] selects among them. -/
def Obligations.RoundFunctionsWorkBitByBit : Prop :=
  (∀ i : BitVec 6,
    (stepKind i = .F ↔ i.extractLsb' 4 2 = 0b00) ∧
    (stepKind i = .G ↔ i.extractLsb' 4 2 = 0b01) ∧
    (stepKind i = .H ↔ i.extractLsb' 4 2 = 0b10) ∧
    (stepKind i = .I ↔ i.extractLsb' 4 2 = 0b11)) ∧
  ∀ (b c d : Word) (k : Nat), k < 32 →
    (roundF b c d).getLsbD k = (if b.getLsbD k then c.getLsbD k else d.getLsbD k) ∧
    (roundG b c d).getLsbD k = (if d.getLsbD k then b.getLsbD k else c.getLsbD k) ∧
    (roundH b c d).getLsbD k = (b.getLsbD k ^^ c.getLsbD k ^^ d.getLsbD k) ∧
    (roundI b c d).getLsbD k = (c.getLsbD k ^^ (b.getLsbD k || !d.getLsbD k))

/-- R96: the block is read as sixteen little-endian words: byte j of X[k] is block byte 4k + j. -/
def Obligations.MessageWordsAreLittleEndian : Prop :=
  ∀ (blk : Vector Byte 64) (k : Fin 16) (j : Fin 4),
    (parseBlock blk)[k].extractLsb' (8 * j.val) 8 = blk[4 * k.val + j.val]

/-- R99, R98, R97, R108: for every step i, its kind, the index g(i), the amount S and the constant K[i] are those of the
per-step table of R108; and each round uses every message word exactly once. -/
def Obligations.StepTablesAreTheSpecs : Prop :=
  ((List.range 64).map fun n =>
    let i := BitVec.ofNat 6 n
    (stepKind i, (msgIndex i).val, rotAmount i, constK i)) =
    stepTableF ++ stepTableG ++ stepTableH ++ stepTableI ∧
  (∀ (r : StepKind) (k : Fin 16), ∃ j : BitVec 4, msgIndex (stepIndex r j) = k ∧
    ∀ j' : BitVec 4, msgIndex (stepIndex r j') = k → j' = j)

/-- R101: STEP_F j executes in every state: t = a + F(b, c, d) + K[j] + X[j], (a, b, c, d) <- (d, b + ROTL(t, S), b, c),
STEP <- STEP + 1, and nothing else changes. -/
def Obligations.StepFUpdatesTheWorkingRegisters : Prop :=
  ∀ (s : State) (j : BitVec 4),
    exec (.stepF j) s = .next { s with
      work := {
        a := s.work.d
        b := s.work.b + rotl (s.work.a + ((s.work.b &&& s.work.c) ||| (~~~s.work.b &&& s.work.d))
          + rowF[j.toFin] + s.work.x[Fin.ofNat 16 j.toNat]) (#v[7, 12, 17, 22][Fin.ofNat 4 j.toNat])
        c := s.work.b
        d := s.work.c
        step := s.work.step + 1
        x := s.work.x } }

/-- R102: STEP_G j executes in every state, with G, K[16 + j], X[(5j + 1) mod 16] and the amounts 5, 9, 14, 20. -/
def Obligations.StepGUpdatesTheWorkingRegisters : Prop :=
  ∀ (s : State) (j : BitVec 4),
    exec (.stepG j) s = .next { s with
      work := {
        a := s.work.d
        b := s.work.b + rotl (s.work.a + ((s.work.b &&& s.work.d) ||| (s.work.c &&& ~~~s.work.d))
          + rowG[j.toFin] + s.work.x[Fin.ofNat 16 (5 * j.toNat + 1)]) (#v[5, 9, 14, 20][Fin.ofNat 4 j.toNat])
        c := s.work.b
        d := s.work.c
        step := s.work.step + 1
        x := s.work.x } }

/-- R103: STEP_H j executes in every state, with H, K[32 + j], X[(3j + 5) mod 16] and the amounts 4, 11, 16, 23. -/
def Obligations.StepHUpdatesTheWorkingRegisters : Prop :=
  ∀ (s : State) (j : BitVec 4),
    exec (.stepH j) s = .next { s with
      work := {
        a := s.work.d
        b := s.work.b + rotl (s.work.a + (s.work.b ^^^ s.work.c ^^^ s.work.d)
          + rowH[j.toFin] + s.work.x[Fin.ofNat 16 (3 * j.toNat + 5)]) (#v[4, 11, 16, 23][Fin.ofNat 4 j.toNat])
        c := s.work.b
        d := s.work.c
        step := s.work.step + 1
        x := s.work.x } }

/-- R104: STEP_I j executes in every state, with I, K[48 + j], X[7j mod 16] and the amounts 6, 10, 15, 21. -/
def Obligations.StepIUpdatesTheWorkingRegisters : Prop :=
  ∀ (s : State) (j : BitVec 4),
    exec (.stepI j) s = .next { s with
      work := {
        a := s.work.d
        b := s.work.b + rotl (s.work.a + (s.work.c ^^^ (s.work.b ||| ~~~s.work.d))
          + rowI[j.toFin] + s.work.x[Fin.ofNat 16 (7 * j.toNat)]) (#v[6, 10, 15, 21][Fin.ofNat 4 j.toNat])
        c := s.work.b
        d := s.work.c
        step := s.work.step + 1
        x := s.work.x } }

/-- R105, R100: COMPRESS, run through STEP and the four step kinds, writes to STATE_A..STATE_D the pure function of R105
of the chaining state and the block, and changes nothing else but the compressor's internals. -/
def Obligations.CompressRefinesThePureFunction : Prop :=
  ∀ (s : State) (blk : Vector Byte 64),
    s.compress blk = { s with
      chain := refCompress s.chain blk
      work := (s.compress blk).work
      compressing := false }

/-- R39, R105: a COMPRESS seen step by step: 64 steps of the machine from its start are the whole COMPRESS that ABSORB
and FINAL execute at once. That it can be seen so is log entry 2. -/
def Obligations.SixtyFourStepsAreOneCompress : Prop :=
  ∀ (s : State) (blk : Vector Byte 64),
    Host.Core.run core 64 (s.beginCompress blk) = .next (s.compress blk)

/-- R106: the source's named-variable form is the same computation: after the 64 steps the four named variables are
the working registers a, b, c, d of the shift-register form. It is about the two pure functions; the machine's COMPRESS
is the second one by CompressRefinesThePureFunction. -/
def Obligations.NamedVariableFormIsTheSameComputation : Prop :=
  ∀ (h : Chain) (blk : Vector Byte 64),
    namedSteps 64 h blk =
      #v[(refSteps 64 h blk).a, (refSteps 64 h blk).b, (refSteps 64 h blk).c, (refSteps 64 h blk).d]

/-! ## Commands and the update pipeline -/

/-- R120, R169, R163: the checks of acceptance in their order, each with what it leaves: `raise` records the code only
while ERR = 0, and nothing else changes. That COUNT + n is compared as an exact sum in every state is the model's
reading (log entry 7; it agrees with the sum modulo 2^64 in every state a run reaches). How many free values a snapshot
draws is the model's own (log entry 6). -/
def Obligations.AcceptanceChecksInTheOrderOfTheRule : Prop :=
  ∀ (s : State) (v : Word),
    let raise := fun (code : BitVec 4) => if s.err then s else { s with err := true, errcode := code }
    let op := v.extractLsb' 0 4
    let len := v.extractLsb' 8 7
    let illegal := v.extractLsb' 4 4 ≠ 0 ∨ v.extractLsb' 15 17 ≠ 0 ∨ 4 ≤ op.toNat ∨ (op ≠ 2 ∧ len ≠ 0)
    s.busWrite 0x00 4 v = .ok (s.accept v) ∧
    (s.busy = true → s.accept v = raise 4) ∧
    (s.busy = false → illegal → s.accept v = raise 1) ∧
    (s.busy = false → ¬ illegal → op = 0 → s.accept v = { s with pend := some .nop, busy := true }) ∧
    (s.busy = false → ¬ illegal → op = 1 → s.accept v = { s with pend := some .init, busy := true }) ∧
    (s.busy = false → ¬ illegal → 2 ≤ op.toNat → s.err = true → s.accept v = s) ∧
    (s.busy = false → ¬ illegal → 2 ≤ op.toNat → s.err = false → s.done = true → s.accept v = raise 3) ∧
    (s.busy = false → ¬ illegal → op = 2 → s.err = false → s.done = false → 65 ≤ len.toNat → s.accept v = raise 2) ∧
    (s.busy = false → ¬ illegal → op = 2 → s.err = false → s.done = false → len.toNat ≤ 64 →
      s.params.maxBytes < s.count.toNat + len.toNat → s.accept v = raise 5) ∧
    (s.busy = false → ¬ illegal → op = 2 → s.err = false → s.done = false → len.toNat ≤ 64 →
      s.count.toNat + len.toNat ≤ s.params.maxBytes →
      s.accept v = { s with
        pend := some (.absorb len (s.snapshot len.toNat))
        busy := true
        draws := s.draws + 16 }) ∧
    (s.busy = false → ¬ illegal → op = 3 → s.err = false → s.done = false →
      s.accept v = { s with pend := some .final, busy := true })

/-- R122: INIT is accepted whenever BUSY = 0; a word with its OP and any other bit set is ILLEGAL_CMD; it executes in
every state: the IV, POS, COUNT, DONE, ERR and ERRCODE
fresh, PEND and BUSY cleared, and nothing else changed (BUF and DATA among it). -/
def Obligations.InitStartsAFreshContext : Prop :=
  (∀ s : State, s.busy = false → s.accept 0x00000001 = { s with pend := some .init, busy := true }) ∧
  (∀ s : State, s.busy = true → s.accept 0x00000001 = s.raiseError .busyWrite) ∧
  (∀ (s : State) (v : Word), s.busy = false → v.extractLsb' 0 4 = 1 → v ≠ 0x00000001 →
    s.accept v = s.raiseError .illegalCmd) ∧
  (∀ s : State, exec .init s = .next { s with
    chain := { a := 0x67452301, b := 0xefcdab89, c := 0x98badcfe, d := 0x10325476 }
    pos := 0
    count := 0
    done := false
    err := false
    errcode := 0
    pend := none
    busy := false })

/-- R125: NOP is accepted whenever BUSY = 0, also when DONE = 1 or ERR = 1; it executes in every state with no effect
but the end of its own pending: on an idle engine, NOP leaves every register as it was. -/
def Obligations.NopHasNoEffect : Prop :=
  (∀ s : State, s.busy = false → s.accept 0x00000000 = { s with pend := some .nop, busy := true }) ∧
  (∀ s : State, s.busy = true → s.accept 0x00000000 = s.raiseError .busyWrite) ∧
  (∀ s : State, exec .nop s = .next { s with pend := none, busy := false }) ∧
  (∀ s : State, s.busy = false → s.pend = none → exec .nop (s.accept 0x00000000) = .next s)

/-- R123: an ABSORB that PEND holds with its bytes executes: with L the occupied bytes of BUF followed by them, the
chaining state has compressed the first L div 64 blocks, BUF[0 .. POS) holds the rest, POS = |L| mod 64, COUNT has grown
by n, and BUSY is cleared. At most one block is compressed. -/
def Obligations.AbsorbExecutes : Prop :=
  ∀ (s : State) (len : BitVec 7) (bytes : List Byte),
    len.toNat ≤ 64 → s.pend = some (.absorb len bytes) → bytes.length = len.toNat →
    ∃ t, exec (.absorb len) s = .next t ∧
      t.chain = (if s.pos.toNat + len.toNat < 64 then s.chain else refCompress s.chain (blockOf (s.tail ++ bytes))) ∧
      t.tail = (if s.pos.toNat + len.toNat < 64 then s.tail ++ bytes else (s.tail ++ bytes).drop 64) ∧
      t.pos.toNat = (s.pos.toNat + len.toNat) % 64 ∧
      t.count = s.count + len.setWidth 64 ∧
      t.busy = false ∧ t.pend = none ∧ t.done = s.done ∧ t.err = s.err ∧ t.errcode = s.errcode

/-- R123: "n = 0 is legal and changes nothing but BUSY". -/
def Obligations.EmptyAbsorbChangesNothing : Prop :=
  ∀ s : State, s.pend = some (.absorb 0 []) → exec (.absorb 0) s = .next { s with pend := none, busy := false }

/-- R124: UPDATE, for a chunk of any length m: with L the occupied bytes of BUF followed by the chunk, the blocks of L
are compressed in order, ⌊(POS + m) / 64⌋ of them; the rest of L is in BUF[0 .. POS); POS is (POS + m) mod 64; COUNT
grows by m modulo 2^64; no flag, no DATA register and nothing of the host changes. -/
def Obligations.UpdateCompressesTheStreamsBlocks : Prop :=
  ∀ (s : State) (chunk : List Byte),
    let t := s.update chunk
    let stream := s.tail ++ chunk
    let blocks := (s.pos.toNat + chunk.length) / 64
    t.chain = refBlocks blocks stream s.chain ∧
    t.tail = stream.drop (64 * blocks) ∧
    t.pos.toNat = (s.pos.toNat + chunk.length) % 64 ∧
    t.count = s.count + BitVec.ofNat 64 chunk.length ∧
    t = { s with
      chain := t.chain, buf := t.buf, pos := t.pos, count := t.count, work := t.work, compressing := t.compressing,
      draws := t.draws }

/-- R127: chunk independence: UPDATE of chunks one after the other leaves the same chaining state, POS, COUNT and
occupied bytes of BUF as UPDATE of them all at once, for any number of chunks of any lengths. -/
def Obligations.ChunkingDoesNotMatter : Prop :=
  ∀ (s : State) (chunks : List (List Byte)),
    let t := chunks.foldl (fun u chunk => u.update chunk) s
    let t' := s.update chunks.flatten
    t.chain = t'.chain ∧ t.pos = t'.pos ∧ t.count = t'.count ∧ t.tail = t'.tail

/-! ## FINAL -/

/-- R140: FINAL's acceptance, which no length limits, and its execution, which always succeeds. -/
def Obligations.FinalIsAcceptedAndAlwaysExecutes : Prop :=
  (∀ s : State, s.busy = true → s.accept 0x00000003 = s.raiseError .busyWrite) ∧
  (∀ s : State, s.busy = false → s.err = true → s.accept 0x00000003 = s) ∧
  (∀ s : State, s.busy = false → s.err = false → s.done = true →
    s.accept 0x00000003 = { s with err := true, errcode := 3 }) ∧
  (∀ s : State, s.busy = false → s.err = false → s.done = false →
    s.accept 0x00000003 = { s with pend := some .final, busy := true }) ∧
  (∀ s : State, ∃ t, exec .final s = .next t ∧ t.done = true ∧ t.busy = false ∧ t.pend = none ∧
    t.err = s.err ∧ t.errcode = s.errcode)

/-- R141, R142: the padding: its length, its 0x80, its zero bytes, and the bit length 8 * COUNT in its last eight bytes,
little-endian, exact for every COUNT below 2^61; lo and hi are COUNT_LO << 3 and COUNT_HI << 3 | COUNT_LO >> 29. -/
def Obligations.PaddingIsAsTheRuleSays : Prop :=
  ∀ (pos : BitVec 6) (count : BitVec 64),
    let pad := padding pos.toNat count
    let n := padLen pos.toNat
    n = (if pos.toNat ≤ 55 then 64 - pos.toNat else 128 - pos.toNat) ∧
    (pos.toNat + n = 64 ∨ pos.toNat + n = 128) ∧
    pad.length = n ∧
    pad[0]? = some 0x80 ∧
    (∀ i, 1 ≤ i → i < n - 8 → pad[i]? = some 0x00) ∧
    (∀ j, j < 8 → pad[n - 8 + j]? = some ((count <<< 3).extractLsb' (8 * j) 8)) ∧
    (count <<< 3).extractLsb' 0 32 = (count.extractLsb' 0 32) <<< 3 ∧
    (count <<< 3).extractLsb' 32 32 = ((count.extractLsb' 32 32) <<< 3 ||| (count.extractLsb' 0 32) >>> 29) ∧
    (count.toNat < 2 ^ 61 → (count <<< 3).toNat = 8 * count.toNat)

/-- R143, R144, R146: FINAL executes in every state: it compresses the occupied bytes of BUF followed by the padding,
one block when POS ≤ 55 and two when POS ≥ 56; it leaves POS = 0, COUNT + padLen in COUNT (a multiple of 64 where
COUNT mod 64 was POS, R43) and DONE = 1. -/
def Obligations.FinalCompressesThePadding : Prop :=
  ∀ s : State, ∃ t, exec .final s = .next t ∧
    t.chain = refBlocks (if s.pos.toNat ≤ 55 then 1 else 2) (s.tail ++ padding s.pos.toNat s.count) s.chain ∧
    t.pos = 0 ∧
    t.count = s.count + BitVec.ofNat 64 (padLen s.pos.toNat) ∧
    (s.count.toNat % 64 = s.pos.toNat → t.count.toNat % 64 = 0) ∧
    t.done = true ∧ t.busy = false ∧ t.pend = none

/-- The frame of the two commands that write to BUF: ABSORB and FINAL leave ERR, ERRCODE, every DATA register, the
parameters and everything of the host as they were; ABSORB leaves DONE too, and one that does not complete a block
leaves the chaining state and the compressor; every DATA register that was written reads as before. -/
def Obligations.AbsorbAndFinalLeaveTheRest : Prop :=
  ∀ (s t : State) (i : Instr), (i = .final ∨ ∃ len, i = .absorb len) → exec i s = .next t →
    t.err = s.err ∧ t.errcode = s.errcode ∧ t.data = s.data ∧ t.written = s.written ∧ t.params = s.params ∧
    t.host = s.host ∧ t.sched = s.sched ∧ t.reads = s.reads ∧ t.checks = s.checks ∧
    (i ≠ .final → t.done = s.done) ∧
    (∀ len, i = .absorb len → s.pos.toNat + len.toNat < 64 → t.chain = s.chain ∧ t.work = s.work) ∧
    (∀ k : Fin 16, s.written[k] = true →
      (t.busRead (0x40 + 4 * k.val) 4).map Prod.fst = (s.busRead (0x40 + 4 * k.val) 4).map Prod.fst)

/-- R145, R127, R143: INIT, any ABSORBs of at most 64 bytes each, FINAL: the run completes, and STATE_A..STATE_D hold the
MD5 chaining state of the bytes in order, for every message below 2^61 bytes, however it was cut. `hashChunks` executes
the commands as PEND holds them, without their acceptance. -/
def Obligations.AbsorbedMessageIsHashed : Prop :=
  ∀ (s : State) (chunks : List (List Byte)),
    (∀ chunk ∈ chunks, chunk.length ≤ 64) → chunks.flatten.length < 2 ^ 61 →
    ∃ t, hashChunks chunks s = .next t ∧ t.chain = refMd5 chunks.flatten ∧ t.done = true ∧ t.err = false ∧ t.busy = false

/-- R147, R83: the host sequence HASH of any message of at most MAX_BYTES bytes, from any idle engine (in a state that
meets the invariant), in whatever order the host's and the engine's turns are laid down (R62; without a reset among
them), runs to its end and reads, in $t0 .. $t3, the four words of its digest, with DONE = 1 and ERR = 0. The turns are
the model's form of the order of events (log entry 3), and the host's program and its read log its form of the host (log
entry 10). -/
def Obligations.HashSequenceReadsTheDigest : Prop :=
  ∀ (s : State) (message : List Byte),
    s.Inv → s.busy = false → .reset ∉ s.sched → s.host = pseudoHash message → message.length ≤ s.params.maxBytes →
    ∃ k t, Host.Core.run core k s = .next t ∧ t.host = [] ∧ t.busy = false ∧ t.done = true ∧ t.err = false ∧
      t.temp 0 = some (refMd5 message).a ∧ t.temp 1 = some (refMd5 message).b ∧
      t.temp 2 = some (refMd5 message).c ∧ t.temp 3 = some (refMd5 message).d

/-! ## Errors -/

/-- R161: errors are detected only at acceptance; in a state that meets the invariant, a step never stops but for a
host access that gets a bus error, and only a host write to CTRL sets ERR. -/
def Obligations.ExecutionNeverFails : Prop :=
  (∀ s : State, s.Inv →
    (∃ t, step s = .next t) ∨ (∃ op f, s.event = .host op ∧ op.legal = false ∧ step s = .fault f)) ∧
  (∀ s t : State, step s = .next t → s.err = false → t.err = true → ∃ width v, s.event = .host (.write 0x00 width v))

/-- R163: recording an error: the first one since INIT or reset is kept, and nothing but ERR and ERRCODE changes; only
INIT and reset clear it. -/
def Obligations.RaisingRecordsTheFirstErrorOnly : Prop :=
  (∀ s t : State, step s = .next t → s.err = true → t.err = false ∨ t.errcode ≠ s.errcode →
    s.event = .engine .init ∨ s.event = .reset) ∧
  ∀ (s : State) (c : ErrorCode),
    (s.err = false → s.raiseError c = { s with
      err := true
      errcode := match c with
        | .illegalCmd => 1
        | .badLen => 2
        | .seq => 3
        | .busyWrite => 4
        | .limit => 5 }) ∧
    (s.err = true → s.raiseError c = s)

/-- R164: while ERR = 1 an idle engine ignores ABSORB and FINAL, and still accepts NOP and INIT; and no step but INIT
and reset ends the poisoning: an unfinished poisoned context with no FINAL pending stays one, so DONE stays 0. -/
def Obligations.PoisonedContextNeverFinishes : Prop :=
  (∀ (s : State) (v : Word), s.err = true → s.busy = false →
    (∀ n, decodeCommand v = .absorb n → s.accept v = s) ∧
    (decodeCommand v = .badLen → s.accept v = s) ∧
    (decodeCommand v = .final → s.accept v = s) ∧
    (decodeCommand v = .nop → s.accept v = { s with pend := some .nop, busy := true }) ∧
    (decodeCommand v = .init → s.accept v = { s with pend := some .init, busy := true })) ∧
  (∀ s t : State, step s = .next t → s.event ≠ .engine .init → s.event ≠ .reset →
    s.err = true → s.done = false → s.pend ≠ some .final →
    t.err = true ∧ t.done = false ∧ t.pend ≠ some .final)

/-- R165: while DONE = 1 and ERR = 0, ABSORB (of any length) and FINAL raise SEQ and change nothing else; INIT is
accepted; and no step but INIT and reset changes the digest or DONE (in a state that meets the invariant). -/
def Obligations.ReuseAfterFinalRaisesSeq : Prop :=
  (∀ s t : State, s.Inv → s.done = true → step s = .next t → s.event ≠ .engine .init → s.event ≠ .reset →
    t.chain = s.chain ∧ t.done = true) ∧
  ∀ (s : State) (v : Word), s.busy = false → s.done = true → s.err = false →
    (∀ n, decodeCommand v = .absorb n → s.accept v = { s with err := true, errcode := 3 }) ∧
    (decodeCommand v = .badLen → s.accept v = { s with err := true, errcode := 3 }) ∧
    (decodeCommand v = .final → s.accept v = { s with err := true, errcode := 3 }) ∧
    (decodeCommand v = .init → s.accept v = { s with pend := some .init, busy := true })

/-- R168: an ABSORB that would take COUNT above MAX_BYTES is refused with LIMIT and not executed, one that reaches
MAX_BYTES exactly is accepted, FINAL is never limited; MAX_BYTES defaults to 2^61 - 1. That COUNT + n is compared as an
exact sum in every state is the model's reading (log entry 7; it agrees with the sum modulo 2^64 in every state a run
reaches). -/
def Obligations.LimitRefusesAnOverlongMessage : Prop :=
  (∀ (s : State) (v : Word) (n : BitVec 7),
    s.busy = false → s.err = false → s.done = false → decodeCommand v = .absorb n →
    (s.params.maxBytes < s.count.toNat + n.toNat → s.accept v = { s with err := true, errcode := 5 }) ∧
    (s.count.toNat + n.toNat ≤ s.params.maxBytes → (s.accept v).pend = some (.absorb n (s.snapshot n.toNat)))) ∧
  (∀ s : State, s.busy = false → s.err = false → s.done = false → (s.accept 0x00000003).pend = some .final) ∧
  State.reset.params.maxBytes = 2 ^ 61 - 1

/-- R178: when BUSY = 0 the engine does nothing until the next CTRL write: no turn of the engine, and no access of the
host but a write to CTRL, changes its context, its flags, PEND or the compressor. -/
def Obligations.IdleEngineKeepsItsState : Prop :=
  ∀ s t : State, s.compressing = false → s.busy = false → step s = .next t → s.event ≠ .reset →
    (∀ width v, s.event ≠ .host (.write 0x00 width v)) →
    t.chain = s.chain ∧ t.buf = s.buf ∧ t.pos = s.pos ∧ t.count = s.count ∧ t.done = s.done ∧ t.err = s.err ∧
    t.errcode = s.errcode ∧ t.busy = false ∧ t.pend = s.pend ∧ t.work = s.work

/-! ## Reset and hazards -/

/-- R180, R27, R42: a reset, whatever the state and whatever was pending, leaves the IV, POS = 0, COUNT = 0, DONE = ERR =
BUSY = 0, ERRCODE = 0 and PEND = none, STATUS reading 0, and no DATA register holding a value anyone wrote (log entry
6). The state after power-on reset is such a state. That a reset during a run leaves the parameters, the host's program
and the turns laid down is the model's choice (log entry 10). -/
def Obligations.ResetLeavesTheValuesOfTheTable : Prop :=
  let fresh := fun t : State =>
    t.chain = { a := 0x67452301, b := 0xefcdab89, c := 0x98badcfe, d := 0x10325476 } ∧
    t.pos = 0 ∧ t.count = 0 ∧ t.done = false ∧ t.err = false ∧ t.errcode = 0 ∧ t.busy = false ∧ t.pend = none ∧
    t.busRead 0x04 4 = .ok (0, t) ∧ (∀ k : Fin 16, t.written[k] = false)
  fresh State.reset ∧
  ∀ (s : State) (rest : List Turn), s.compressing = false → s.sched = .reset :: rest →
    ∃ t, step s = .next t ∧ fresh t ∧ t.params = s.params ∧ t.host = s.host ∧ t.sched = rest

/-- R181: the state after reset equals the state after INIT executes on an idle engine but for BUF and DATA (and the
model's own fields for free values, written DATA registers and the compressor's internals, log entries 4 to 6). That a
reset also leaves the host's program, its reads and checks, the turns and the parameters is the model's choice (log
entry 10). -/
def Obligations.ResetIsInitOnAnIdleEngine : Prop :=
  ∀ s : State, s.busy = false → s.compressing = false →
    ∃ t, exec .init (s.accept 0x00000001) = .next t ∧
      s.resetEngine = { t with
        buf := s.resetEngine.buf
        data := s.resetEngine.data
        written := s.resetEngine.written
        work := s.resetEngine.work
        draws := s.resetEngine.draws } ∧
      t.buf = s.buf ∧ t.data = s.data

/-- R185: a CTRL write while BUSY = 1 raises BUSY_WRITE and is not executed, and the pending command stays and still
executes; if it is INIT, its execution clears the error that the write recorded. -/
def Obligations.WriteWhileBusyIsRefused : Prop :=
  ∀ (s : State) (v : Word), s.busy = true →
    (s.err = false → s.accept v = { s with err := true, errcode := 4 }) ∧
    (s.err = true → s.accept v = s) ∧
    (s.accept v).pend = s.pend ∧
    (∃ t, exec .init (s.accept v) = .next t ∧ t.err = false ∧ t.errcode = 0)

/-- R80: POLL reads STATUS; while BUSY = 1 it stays the host's next statement, and when BUSY = 0 it ends; the engine's
registers do not change. That POLL's reads are not recorded in the host's read log is the model's choice (log entry 10),
and so is that a read of STATUS while BUSY = 1 draws one free value, for POS (log entry 4). -/
def Obligations.PollWaitsWhileBusy : Prop :=
  ∀ (s : State) (rest : List HostOp), s.host = .poll :: rest →
    (s.busy = true → hostTurn s = .next { s with draws := s.draws + 1 }) ∧
    (s.busy = false → hostTurn s = .next { s with host := rest })

/-- R82: LOAD of m bytes, m ≤ 64, as the host's program on an idle engine runs to its end, in whatever order the turns
are laid down (without a reset among them), and leaves in window bytes 0 .. m - 1 those bytes, so that an ABSORB m then
takes them; DATA words beyond ⌈m/4⌉ - 1 are not written, and nothing else changes but the host's program and the turns
left (log entries 3 and 10). -/
def Obligations.LoadPutsTheBytesInTheWindow : Prop :=
  ∀ (s : State) (bytes : List Byte),
    bytes.length ≤ 64 → s.compressing = false → s.busy = false → .reset ∉ s.sched → s.host = pseudoLoad bytes →
    ∃ k t, Host.Core.run core k s = .next t ∧ t.host = [] ∧ t.snapshot bytes.length = bytes ∧
      t = { s with host := [], sched := t.sched, data := t.data, written := t.written } ∧
      (∀ i : Fin 16, (bytes.length + 3) / 4 ≤ i.val → t.data[i] = s.data[i] ∧ t.written[i] = s.written[i])
end

