-- ==== Sys2Proof/Laws/State.lean ====
section
/-! SUPPORT. What each named update of State leaves in each field; true by unfolding, tagged simp, so that no proof
unfolds a record update. -/

namespace Sys2Proof.Machine

/-! ## setPending -/

@[simp] theorem State.setPending_chain (s : State) (p : Pending) : (s.setPending p).chain = s.chain := by cases s; rfl
@[simp] theorem State.setPending_buf (s : State) (p : Pending) : (s.setPending p).buf = s.buf := by cases s; rfl
@[simp] theorem State.setPending_pos (s : State) (p : Pending) : (s.setPending p).pos = s.pos := by cases s; rfl
@[simp] theorem State.setPending_count (s : State) (p : Pending) : (s.setPending p).count = s.count := by cases s; rfl
@[simp] theorem State.setPending_done (s : State) (p : Pending) : (s.setPending p).done = s.done := by cases s; rfl
@[simp] theorem State.setPending_err (s : State) (p : Pending) : (s.setPending p).err = s.err := by cases s; rfl
@[simp] theorem State.setPending_errcode (s : State) (p : Pending) : (s.setPending p).errcode = s.errcode := by cases s; rfl
@[simp] theorem State.setPending_busy (s : State) (p : Pending) : (s.setPending p).busy = true := by cases s; rfl
@[simp] theorem State.setPending_pend (s : State) (p : Pending) : (s.setPending p).pend = some p := by cases s; rfl
@[simp] theorem State.setPending_data (s : State) (p : Pending) : (s.setPending p).data = s.data := by cases s; rfl
@[simp] theorem State.setPending_written (s : State) (p : Pending) : (s.setPending p).written = s.written := by cases s; rfl
@[simp] theorem State.setPending_work (s : State) (p : Pending) : (s.setPending p).work = s.work := by cases s; rfl
@[simp] theorem State.setPending_compressing (s : State) (p : Pending) : (s.setPending p).compressing = s.compressing := by cases s; rfl
@[simp] theorem State.setPending_params (s : State) (p : Pending) : (s.setPending p).params = s.params := by cases s; rfl
@[simp] theorem State.setPending_host (s : State) (p : Pending) : (s.setPending p).host = s.host := by cases s; rfl
@[simp] theorem State.setPending_sched (s : State) (p : Pending) : (s.setPending p).sched = s.sched := by cases s; rfl
@[simp] theorem State.setPending_reads (s : State) (p : Pending) : (s.setPending p).reads = s.reads := by cases s; rfl
@[simp] theorem State.setPending_checks (s : State) (p : Pending) : (s.setPending p).checks = s.checks := by cases s; rfl
@[simp] theorem State.setPending_draws (s : State) (p : Pending) : (s.setPending p).draws = s.draws := by cases s; rfl

/-! ## retire -/

@[simp] theorem State.retire_chain (s : State) : (s.retire).chain = s.chain := by cases s; rfl
@[simp] theorem State.retire_buf (s : State) : (s.retire).buf = s.buf := by cases s; rfl
@[simp] theorem State.retire_pos (s : State) : (s.retire).pos = s.pos := by cases s; rfl
@[simp] theorem State.retire_count (s : State) : (s.retire).count = s.count := by cases s; rfl
@[simp] theorem State.retire_done (s : State) : (s.retire).done = s.done := by cases s; rfl
@[simp] theorem State.retire_err (s : State) : (s.retire).err = s.err := by cases s; rfl
@[simp] theorem State.retire_errcode (s : State) : (s.retire).errcode = s.errcode := by cases s; rfl
@[simp] theorem State.retire_busy (s : State) : (s.retire).busy = false := by cases s; rfl
@[simp] theorem State.retire_pend (s : State) : (s.retire).pend = none := by cases s; rfl
@[simp] theorem State.retire_data (s : State) : (s.retire).data = s.data := by cases s; rfl
@[simp] theorem State.retire_written (s : State) : (s.retire).written = s.written := by cases s; rfl
@[simp] theorem State.retire_work (s : State) : (s.retire).work = s.work := by cases s; rfl
@[simp] theorem State.retire_compressing (s : State) : (s.retire).compressing = s.compressing := by cases s; rfl
@[simp] theorem State.retire_params (s : State) : (s.retire).params = s.params := by cases s; rfl
@[simp] theorem State.retire_host (s : State) : (s.retire).host = s.host := by cases s; rfl
@[simp] theorem State.retire_sched (s : State) : (s.retire).sched = s.sched := by cases s; rfl
@[simp] theorem State.retire_reads (s : State) : (s.retire).reads = s.reads := by cases s; rfl
@[simp] theorem State.retire_checks (s : State) : (s.retire).checks = s.checks := by cases s; rfl
@[simp] theorem State.retire_draws (s : State) : (s.retire).draws = s.draws := by cases s; rfl

/-! ## setDone -/

@[simp] theorem State.setDone_chain (s : State) : (s.setDone).chain = s.chain := by cases s; rfl
@[simp] theorem State.setDone_buf (s : State) : (s.setDone).buf = s.buf := by cases s; rfl
@[simp] theorem State.setDone_pos (s : State) : (s.setDone).pos = s.pos := by cases s; rfl
@[simp] theorem State.setDone_count (s : State) : (s.setDone).count = s.count := by cases s; rfl
@[simp] theorem State.setDone_done (s : State) : (s.setDone).done = true := by cases s; rfl
@[simp] theorem State.setDone_err (s : State) : (s.setDone).err = s.err := by cases s; rfl
@[simp] theorem State.setDone_errcode (s : State) : (s.setDone).errcode = s.errcode := by cases s; rfl
@[simp] theorem State.setDone_busy (s : State) : (s.setDone).busy = s.busy := by cases s; rfl
@[simp] theorem State.setDone_pend (s : State) : (s.setDone).pend = s.pend := by cases s; rfl
@[simp] theorem State.setDone_data (s : State) : (s.setDone).data = s.data := by cases s; rfl
@[simp] theorem State.setDone_written (s : State) : (s.setDone).written = s.written := by cases s; rfl
@[simp] theorem State.setDone_work (s : State) : (s.setDone).work = s.work := by cases s; rfl
@[simp] theorem State.setDone_compressing (s : State) : (s.setDone).compressing = s.compressing := by cases s; rfl
@[simp] theorem State.setDone_params (s : State) : (s.setDone).params = s.params := by cases s; rfl
@[simp] theorem State.setDone_host (s : State) : (s.setDone).host = s.host := by cases s; rfl
@[simp] theorem State.setDone_sched (s : State) : (s.setDone).sched = s.sched := by cases s; rfl
@[simp] theorem State.setDone_reads (s : State) : (s.setDone).reads = s.reads := by cases s; rfl
@[simp] theorem State.setDone_checks (s : State) : (s.setDone).checks = s.checks := by cases s; rfl
@[simp] theorem State.setDone_draws (s : State) : (s.setDone).draws = s.draws := by cases s; rfl

/-! ## clearError -/

@[simp] theorem State.clearError_chain (s : State) : (s.clearError).chain = s.chain := by cases s; rfl
@[simp] theorem State.clearError_buf (s : State) : (s.clearError).buf = s.buf := by cases s; rfl
@[simp] theorem State.clearError_pos (s : State) : (s.clearError).pos = s.pos := by cases s; rfl
@[simp] theorem State.clearError_count (s : State) : (s.clearError).count = s.count := by cases s; rfl
@[simp] theorem State.clearError_done (s : State) : (s.clearError).done = false := by cases s; rfl
@[simp] theorem State.clearError_err (s : State) : (s.clearError).err = false := by cases s; rfl
@[simp] theorem State.clearError_errcode (s : State) : (s.clearError).errcode = 0 := by cases s; rfl
@[simp] theorem State.clearError_busy (s : State) : (s.clearError).busy = s.busy := by cases s; rfl
@[simp] theorem State.clearError_pend (s : State) : (s.clearError).pend = s.pend := by cases s; rfl
@[simp] theorem State.clearError_data (s : State) : (s.clearError).data = s.data := by cases s; rfl
@[simp] theorem State.clearError_written (s : State) : (s.clearError).written = s.written := by cases s; rfl
@[simp] theorem State.clearError_work (s : State) : (s.clearError).work = s.work := by cases s; rfl
@[simp] theorem State.clearError_compressing (s : State) : (s.clearError).compressing = s.compressing := by cases s; rfl
@[simp] theorem State.clearError_params (s : State) : (s.clearError).params = s.params := by cases s; rfl
@[simp] theorem State.clearError_host (s : State) : (s.clearError).host = s.host := by cases s; rfl
@[simp] theorem State.clearError_sched (s : State) : (s.clearError).sched = s.sched := by cases s; rfl
@[simp] theorem State.clearError_reads (s : State) : (s.clearError).reads = s.reads := by cases s; rfl
@[simp] theorem State.clearError_checks (s : State) : (s.clearError).checks = s.checks := by cases s; rfl
@[simp] theorem State.clearError_draws (s : State) : (s.clearError).draws = s.draws := by cases s; rfl

/-! ## freshContext -/

@[simp] theorem State.freshContext_chain (s : State) : (s.freshContext).chain = Chain.iv := by cases s; rfl
@[simp] theorem State.freshContext_buf (s : State) : (s.freshContext).buf = s.buf := by cases s; rfl
@[simp] theorem State.freshContext_pos (s : State) : (s.freshContext).pos = 0 := by cases s; rfl
@[simp] theorem State.freshContext_count (s : State) : (s.freshContext).count = 0 := by cases s; rfl
@[simp] theorem State.freshContext_done (s : State) : (s.freshContext).done = s.done := by cases s; rfl
@[simp] theorem State.freshContext_err (s : State) : (s.freshContext).err = s.err := by cases s; rfl
@[simp] theorem State.freshContext_errcode (s : State) : (s.freshContext).errcode = s.errcode := by cases s; rfl
@[simp] theorem State.freshContext_busy (s : State) : (s.freshContext).busy = s.busy := by cases s; rfl
@[simp] theorem State.freshContext_pend (s : State) : (s.freshContext).pend = s.pend := by cases s; rfl
@[simp] theorem State.freshContext_data (s : State) : (s.freshContext).data = s.data := by cases s; rfl
@[simp] theorem State.freshContext_written (s : State) : (s.freshContext).written = s.written := by cases s; rfl
@[simp] theorem State.freshContext_work (s : State) : (s.freshContext).work = s.work := by cases s; rfl
@[simp] theorem State.freshContext_compressing (s : State) : (s.freshContext).compressing = s.compressing := by cases s; rfl
@[simp] theorem State.freshContext_params (s : State) : (s.freshContext).params = s.params := by cases s; rfl
@[simp] theorem State.freshContext_host (s : State) : (s.freshContext).host = s.host := by cases s; rfl
@[simp] theorem State.freshContext_sched (s : State) : (s.freshContext).sched = s.sched := by cases s; rfl
@[simp] theorem State.freshContext_reads (s : State) : (s.freshContext).reads = s.reads := by cases s; rfl
@[simp] theorem State.freshContext_checks (s : State) : (s.freshContext).checks = s.checks := by cases s; rfl
@[simp] theorem State.freshContext_draws (s : State) : (s.freshContext).draws = s.draws := by cases s; rfl

/-! ## took -/

@[simp] theorem State.took_chain (s : State) (rest : List Turn) : (s.took rest).chain = s.chain := by cases s; rfl
@[simp] theorem State.took_buf (s : State) (rest : List Turn) : (s.took rest).buf = s.buf := by cases s; rfl
@[simp] theorem State.took_pos (s : State) (rest : List Turn) : (s.took rest).pos = s.pos := by cases s; rfl
@[simp] theorem State.took_count (s : State) (rest : List Turn) : (s.took rest).count = s.count := by cases s; rfl
@[simp] theorem State.took_done (s : State) (rest : List Turn) : (s.took rest).done = s.done := by cases s; rfl
@[simp] theorem State.took_err (s : State) (rest : List Turn) : (s.took rest).err = s.err := by cases s; rfl
@[simp] theorem State.took_errcode (s : State) (rest : List Turn) : (s.took rest).errcode = s.errcode := by cases s; rfl
@[simp] theorem State.took_busy (s : State) (rest : List Turn) : (s.took rest).busy = s.busy := by cases s; rfl
@[simp] theorem State.took_pend (s : State) (rest : List Turn) : (s.took rest).pend = s.pend := by cases s; rfl
@[simp] theorem State.took_data (s : State) (rest : List Turn) : (s.took rest).data = s.data := by cases s; rfl
@[simp] theorem State.took_written (s : State) (rest : List Turn) : (s.took rest).written = s.written := by cases s; rfl
@[simp] theorem State.took_work (s : State) (rest : List Turn) : (s.took rest).work = s.work := by cases s; rfl
@[simp] theorem State.took_compressing (s : State) (rest : List Turn) : (s.took rest).compressing = s.compressing := by cases s; rfl
@[simp] theorem State.took_params (s : State) (rest : List Turn) : (s.took rest).params = s.params := by cases s; rfl
@[simp] theorem State.took_host (s : State) (rest : List Turn) : (s.took rest).host = s.host := by cases s; rfl
@[simp] theorem State.took_sched (s : State) (rest : List Turn) : (s.took rest).sched = rest := by cases s; rfl
@[simp] theorem State.took_reads (s : State) (rest : List Turn) : (s.took rest).reads = s.reads := by cases s; rfl
@[simp] theorem State.took_checks (s : State) (rest : List Turn) : (s.took rest).checks = s.checks := by cases s; rfl
@[simp] theorem State.took_draws (s : State) (rest : List Turn) : (s.took rest).draws = s.draws := by cases s; rfl

/-! ## storeData -/

@[simp] theorem State.storeData_chain (s : State) (k : Fin 16) (v : Word) : (s.storeData k v).chain = s.chain := by cases s; rfl
@[simp] theorem State.storeData_buf (s : State) (k : Fin 16) (v : Word) : (s.storeData k v).buf = s.buf := by cases s; rfl
@[simp] theorem State.storeData_pos (s : State) (k : Fin 16) (v : Word) : (s.storeData k v).pos = s.pos := by cases s; rfl
@[simp] theorem State.storeData_count (s : State) (k : Fin 16) (v : Word) : (s.storeData k v).count = s.count := by cases s; rfl
@[simp] theorem State.storeData_done (s : State) (k : Fin 16) (v : Word) : (s.storeData k v).done = s.done := by cases s; rfl
@[simp] theorem State.storeData_err (s : State) (k : Fin 16) (v : Word) : (s.storeData k v).err = s.err := by cases s; rfl
@[simp] theorem State.storeData_errcode (s : State) (k : Fin 16) (v : Word) : (s.storeData k v).errcode = s.errcode := by cases s; rfl
@[simp] theorem State.storeData_busy (s : State) (k : Fin 16) (v : Word) : (s.storeData k v).busy = s.busy := by cases s; rfl
@[simp] theorem State.storeData_pend (s : State) (k : Fin 16) (v : Word) : (s.storeData k v).pend = s.pend := by cases s; rfl
@[simp] theorem State.storeData_data (s : State) (k : Fin 16) (v : Word) : (s.storeData k v).data = s.data.set k.val v := by cases s; rfl
@[simp] theorem State.storeData_written (s : State) (k : Fin 16) (v : Word) : (s.storeData k v).written = s.written.set k.val true := by cases s; rfl
@[simp] theorem State.storeData_work (s : State) (k : Fin 16) (v : Word) : (s.storeData k v).work = s.work := by cases s; rfl
@[simp] theorem State.storeData_compressing (s : State) (k : Fin 16) (v : Word) : (s.storeData k v).compressing = s.compressing := by cases s; rfl
@[simp] theorem State.storeData_params (s : State) (k : Fin 16) (v : Word) : (s.storeData k v).params = s.params := by cases s; rfl
@[simp] theorem State.storeData_host (s : State) (k : Fin 16) (v : Word) : (s.storeData k v).host = s.host := by cases s; rfl
@[simp] theorem State.storeData_sched (s : State) (k : Fin 16) (v : Word) : (s.storeData k v).sched = s.sched := by cases s; rfl
@[simp] theorem State.storeData_reads (s : State) (k : Fin 16) (v : Word) : (s.storeData k v).reads = s.reads := by cases s; rfl
@[simp] theorem State.storeData_checks (s : State) (k : Fin 16) (v : Word) : (s.storeData k v).checks = s.checks := by cases s; rfl
@[simp] theorem State.storeData_draws (s : State) (k : Fin 16) (v : Word) : (s.storeData k v).draws = s.draws := by cases s; rfl

/-! ## drew -/

@[simp] theorem State.drew_chain (s : State) (n : Nat) : (s.drew n).chain = s.chain := by cases s; rfl
@[simp] theorem State.drew_buf (s : State) (n : Nat) : (s.drew n).buf = s.buf := by cases s; rfl
@[simp] theorem State.drew_pos (s : State) (n : Nat) : (s.drew n).pos = s.pos := by cases s; rfl
@[simp] theorem State.drew_count (s : State) (n : Nat) : (s.drew n).count = s.count := by cases s; rfl
@[simp] theorem State.drew_done (s : State) (n : Nat) : (s.drew n).done = s.done := by cases s; rfl
@[simp] theorem State.drew_err (s : State) (n : Nat) : (s.drew n).err = s.err := by cases s; rfl
@[simp] theorem State.drew_errcode (s : State) (n : Nat) : (s.drew n).errcode = s.errcode := by cases s; rfl
@[simp] theorem State.drew_busy (s : State) (n : Nat) : (s.drew n).busy = s.busy := by cases s; rfl
@[simp] theorem State.drew_pend (s : State) (n : Nat) : (s.drew n).pend = s.pend := by cases s; rfl
@[simp] theorem State.drew_data (s : State) (n : Nat) : (s.drew n).data = s.data := by cases s; rfl
@[simp] theorem State.drew_written (s : State) (n : Nat) : (s.drew n).written = s.written := by cases s; rfl
@[simp] theorem State.drew_work (s : State) (n : Nat) : (s.drew n).work = s.work := by cases s; rfl
@[simp] theorem State.drew_compressing (s : State) (n : Nat) : (s.drew n).compressing = s.compressing := by cases s; rfl
@[simp] theorem State.drew_params (s : State) (n : Nat) : (s.drew n).params = s.params := by cases s; rfl
@[simp] theorem State.drew_host (s : State) (n : Nat) : (s.drew n).host = s.host := by cases s; rfl
@[simp] theorem State.drew_sched (s : State) (n : Nat) : (s.drew n).sched = s.sched := by cases s; rfl
@[simp] theorem State.drew_reads (s : State) (n : Nat) : (s.drew n).reads = s.reads := by cases s; rfl
@[simp] theorem State.drew_checks (s : State) (n : Nat) : (s.drew n).checks = s.checks := by cases s; rfl
@[simp] theorem State.drew_draws (s : State) (n : Nat) : (s.drew n).draws = s.draws + n := by cases s; rfl

/-! ## beginCompress -/

@[simp] theorem State.beginCompress_chain (s : State) (blk : Vector Byte 64) : (s.beginCompress blk).chain = s.chain := by cases s; rfl
@[simp] theorem State.beginCompress_buf (s : State) (blk : Vector Byte 64) : (s.beginCompress blk).buf = s.buf := by cases s; rfl
@[simp] theorem State.beginCompress_pos (s : State) (blk : Vector Byte 64) : (s.beginCompress blk).pos = s.pos := by cases s; rfl
@[simp] theorem State.beginCompress_count (s : State) (blk : Vector Byte 64) : (s.beginCompress blk).count = s.count := by cases s; rfl
@[simp] theorem State.beginCompress_done (s : State) (blk : Vector Byte 64) : (s.beginCompress blk).done = s.done := by cases s; rfl
@[simp] theorem State.beginCompress_err (s : State) (blk : Vector Byte 64) : (s.beginCompress blk).err = s.err := by cases s; rfl
@[simp] theorem State.beginCompress_errcode (s : State) (blk : Vector Byte 64) : (s.beginCompress blk).errcode = s.errcode := by cases s; rfl
@[simp] theorem State.beginCompress_busy (s : State) (blk : Vector Byte 64) : (s.beginCompress blk).busy = s.busy := by cases s; rfl
@[simp] theorem State.beginCompress_pend (s : State) (blk : Vector Byte 64) : (s.beginCompress blk).pend = s.pend := by cases s; rfl
@[simp] theorem State.beginCompress_data (s : State) (blk : Vector Byte 64) : (s.beginCompress blk).data = s.data := by cases s; rfl
@[simp] theorem State.beginCompress_written (s : State) (blk : Vector Byte 64) : (s.beginCompress blk).written = s.written := by cases s; rfl
@[simp] theorem State.beginCompress_work (s : State) (blk : Vector Byte 64) : (s.beginCompress blk).work = s.chain.start blk := by cases s; rfl
@[simp] theorem State.beginCompress_compressing (s : State) (blk : Vector Byte 64) : (s.beginCompress blk).compressing = true := by cases s; rfl
@[simp] theorem State.beginCompress_params (s : State) (blk : Vector Byte 64) : (s.beginCompress blk).params = s.params := by cases s; rfl
@[simp] theorem State.beginCompress_host (s : State) (blk : Vector Byte 64) : (s.beginCompress blk).host = s.host := by cases s; rfl
@[simp] theorem State.beginCompress_sched (s : State) (blk : Vector Byte 64) : (s.beginCompress blk).sched = s.sched := by cases s; rfl
@[simp] theorem State.beginCompress_reads (s : State) (blk : Vector Byte 64) : (s.beginCompress blk).reads = s.reads := by cases s; rfl
@[simp] theorem State.beginCompress_checks (s : State) (blk : Vector Byte 64) : (s.beginCompress blk).checks = s.checks := by cases s; rfl
@[simp] theorem State.beginCompress_draws (s : State) (blk : Vector Byte 64) : (s.beginCompress blk).draws = s.draws := by cases s; rfl

/-! ## runSteps -/

@[simp] theorem State.runSteps_chain (s : State) : (s.runSteps).chain = s.chain := by cases s; rfl
@[simp] theorem State.runSteps_buf (s : State) : (s.runSteps).buf = s.buf := by cases s; rfl
@[simp] theorem State.runSteps_pos (s : State) : (s.runSteps).pos = s.pos := by cases s; rfl
@[simp] theorem State.runSteps_count (s : State) : (s.runSteps).count = s.count := by cases s; rfl
@[simp] theorem State.runSteps_done (s : State) : (s.runSteps).done = s.done := by cases s; rfl
@[simp] theorem State.runSteps_err (s : State) : (s.runSteps).err = s.err := by cases s; rfl
@[simp] theorem State.runSteps_errcode (s : State) : (s.runSteps).errcode = s.errcode := by cases s; rfl
@[simp] theorem State.runSteps_busy (s : State) : (s.runSteps).busy = s.busy := by cases s; rfl
@[simp] theorem State.runSteps_pend (s : State) : (s.runSteps).pend = s.pend := by cases s; rfl
@[simp] theorem State.runSteps_data (s : State) : (s.runSteps).data = s.data := by cases s; rfl
@[simp] theorem State.runSteps_written (s : State) : (s.runSteps).written = s.written := by cases s; rfl
@[simp] theorem State.runSteps_work (s : State) : (s.runSteps).work = s.work.ticks 64 := by cases s; rfl
@[simp] theorem State.runSteps_compressing (s : State) : (s.runSteps).compressing = s.compressing := by cases s; rfl
@[simp] theorem State.runSteps_params (s : State) : (s.runSteps).params = s.params := by cases s; rfl
@[simp] theorem State.runSteps_host (s : State) : (s.runSteps).host = s.host := by cases s; rfl
@[simp] theorem State.runSteps_sched (s : State) : (s.runSteps).sched = s.sched := by cases s; rfl
@[simp] theorem State.runSteps_reads (s : State) : (s.runSteps).reads = s.reads := by cases s; rfl
@[simp] theorem State.runSteps_checks (s : State) : (s.runSteps).checks = s.checks := by cases s; rfl
@[simp] theorem State.runSteps_draws (s : State) : (s.runSteps).draws = s.draws := by cases s; rfl

/-! ## endCompress -/

@[simp] theorem State.endCompress_chain (s : State) : (s.endCompress).chain = s.chain.feed s.work := by cases s; rfl
@[simp] theorem State.endCompress_buf (s : State) : (s.endCompress).buf = s.buf := by cases s; rfl
@[simp] theorem State.endCompress_pos (s : State) : (s.endCompress).pos = s.pos := by cases s; rfl
@[simp] theorem State.endCompress_count (s : State) : (s.endCompress).count = s.count := by cases s; rfl
@[simp] theorem State.endCompress_done (s : State) : (s.endCompress).done = s.done := by cases s; rfl
@[simp] theorem State.endCompress_err (s : State) : (s.endCompress).err = s.err := by cases s; rfl
@[simp] theorem State.endCompress_errcode (s : State) : (s.endCompress).errcode = s.errcode := by cases s; rfl
@[simp] theorem State.endCompress_busy (s : State) : (s.endCompress).busy = s.busy := by cases s; rfl
@[simp] theorem State.endCompress_pend (s : State) : (s.endCompress).pend = s.pend := by cases s; rfl
@[simp] theorem State.endCompress_data (s : State) : (s.endCompress).data = s.data := by cases s; rfl
@[simp] theorem State.endCompress_written (s : State) : (s.endCompress).written = s.written := by cases s; rfl
@[simp] theorem State.endCompress_work (s : State) : (s.endCompress).work = s.work := by cases s; rfl
@[simp] theorem State.endCompress_compressing (s : State) : (s.endCompress).compressing = false := by cases s; rfl
@[simp] theorem State.endCompress_params (s : State) : (s.endCompress).params = s.params := by cases s; rfl
@[simp] theorem State.endCompress_host (s : State) : (s.endCompress).host = s.host := by cases s; rfl
@[simp] theorem State.endCompress_sched (s : State) : (s.endCompress).sched = s.sched := by cases s; rfl
@[simp] theorem State.endCompress_reads (s : State) : (s.endCompress).reads = s.reads := by cases s; rfl
@[simp] theorem State.endCompress_checks (s : State) : (s.endCompress).checks = s.checks := by cases s; rfl
@[simp] theorem State.endCompress_draws (s : State) : (s.endCompress).draws = s.draws := by cases s; rfl

/-! ## pendAbsorb -/

@[simp] theorem State.pendAbsorb_chain (s : State) (len : BitVec 7) : (s.pendAbsorb len).chain = s.chain := by cases s; rfl
@[simp] theorem State.pendAbsorb_buf (s : State) (len : BitVec 7) : (s.pendAbsorb len).buf = s.buf := by cases s; rfl
@[simp] theorem State.pendAbsorb_pos (s : State) (len : BitVec 7) : (s.pendAbsorb len).pos = s.pos := by cases s; rfl
@[simp] theorem State.pendAbsorb_count (s : State) (len : BitVec 7) : (s.pendAbsorb len).count = s.count := by cases s; rfl
@[simp] theorem State.pendAbsorb_done (s : State) (len : BitVec 7) : (s.pendAbsorb len).done = s.done := by cases s; rfl
@[simp] theorem State.pendAbsorb_err (s : State) (len : BitVec 7) : (s.pendAbsorb len).err = s.err := by cases s; rfl
@[simp] theorem State.pendAbsorb_errcode (s : State) (len : BitVec 7) : (s.pendAbsorb len).errcode = s.errcode := by cases s; rfl
@[simp] theorem State.pendAbsorb_busy (s : State) (len : BitVec 7) : (s.pendAbsorb len).busy = true := by cases s; rfl
@[simp] theorem State.pendAbsorb_pend (s : State) (len : BitVec 7) : (s.pendAbsorb len).pend = some (.absorb len (s.snapshot len.toNat)) := by cases s; rfl
@[simp] theorem State.pendAbsorb_data (s : State) (len : BitVec 7) : (s.pendAbsorb len).data = s.data := by cases s; rfl
@[simp] theorem State.pendAbsorb_written (s : State) (len : BitVec 7) : (s.pendAbsorb len).written = s.written := by cases s; rfl
@[simp] theorem State.pendAbsorb_work (s : State) (len : BitVec 7) : (s.pendAbsorb len).work = s.work := by cases s; rfl
@[simp] theorem State.pendAbsorb_compressing (s : State) (len : BitVec 7) : (s.pendAbsorb len).compressing = s.compressing := by cases s; rfl
@[simp] theorem State.pendAbsorb_params (s : State) (len : BitVec 7) : (s.pendAbsorb len).params = s.params := by cases s; rfl
@[simp] theorem State.pendAbsorb_host (s : State) (len : BitVec 7) : (s.pendAbsorb len).host = s.host := by cases s; rfl
@[simp] theorem State.pendAbsorb_sched (s : State) (len : BitVec 7) : (s.pendAbsorb len).sched = s.sched := by cases s; rfl
@[simp] theorem State.pendAbsorb_reads (s : State) (len : BitVec 7) : (s.pendAbsorb len).reads = s.reads := by cases s; rfl
@[simp] theorem State.pendAbsorb_checks (s : State) (len : BitVec 7) : (s.pendAbsorb len).checks = s.checks := by cases s; rfl
@[simp] theorem State.pendAbsorb_draws (s : State) (len : BitVec 7) : (s.pendAbsorb len).draws = s.draws + 16 := by cases s; rfl

/-! ## raiseError: only ERR and ERRCODE (R163) -/

@[simp] theorem State.raiseError_chain (s : State) (c : ErrorCode) : (s.raiseError c).chain = s.chain := by
  unfold State.raiseError; split <;> rfl
@[simp] theorem State.raiseError_buf (s : State) (c : ErrorCode) : (s.raiseError c).buf = s.buf := by
  unfold State.raiseError; split <;> rfl
@[simp] theorem State.raiseError_pos (s : State) (c : ErrorCode) : (s.raiseError c).pos = s.pos := by
  unfold State.raiseError; split <;> rfl
@[simp] theorem State.raiseError_count (s : State) (c : ErrorCode) : (s.raiseError c).count = s.count := by
  unfold State.raiseError; split <;> rfl
@[simp] theorem State.raiseError_done (s : State) (c : ErrorCode) : (s.raiseError c).done = s.done := by
  unfold State.raiseError; split <;> rfl
@[simp] theorem State.raiseError_busy (s : State) (c : ErrorCode) : (s.raiseError c).busy = s.busy := by
  unfold State.raiseError; split <;> rfl
@[simp] theorem State.raiseError_pend (s : State) (c : ErrorCode) : (s.raiseError c).pend = s.pend := by
  unfold State.raiseError; split <;> rfl
@[simp] theorem State.raiseError_data (s : State) (c : ErrorCode) : (s.raiseError c).data = s.data := by
  unfold State.raiseError; split <;> rfl
@[simp] theorem State.raiseError_written (s : State) (c : ErrorCode) : (s.raiseError c).written = s.written := by
  unfold State.raiseError; split <;> rfl
@[simp] theorem State.raiseError_work (s : State) (c : ErrorCode) : (s.raiseError c).work = s.work := by
  unfold State.raiseError; split <;> rfl
@[simp] theorem State.raiseError_compressing (s : State) (c : ErrorCode) : (s.raiseError c).compressing = s.compressing := by
  unfold State.raiseError; split <;> rfl
@[simp] theorem State.raiseError_params (s : State) (c : ErrorCode) : (s.raiseError c).params = s.params := by
  unfold State.raiseError; split <;> rfl
@[simp] theorem State.raiseError_host (s : State) (c : ErrorCode) : (s.raiseError c).host = s.host := by
  unfold State.raiseError; split <;> rfl
@[simp] theorem State.raiseError_sched (s : State) (c : ErrorCode) : (s.raiseError c).sched = s.sched := by
  unfold State.raiseError; split <;> rfl
@[simp] theorem State.raiseError_reads (s : State) (c : ErrorCode) : (s.raiseError c).reads = s.reads := by
  unfold State.raiseError; split <;> rfl
@[simp] theorem State.raiseError_checks (s : State) (c : ErrorCode) : (s.raiseError c).checks = s.checks := by
  unfold State.raiseError; split <;> rfl
@[simp] theorem State.raiseError_draws (s : State) (c : ErrorCode) : (s.raiseError c).draws = s.draws := by
  unfold State.raiseError; split <;> rfl

@[simp] theorem State.raiseError_err (s : State) (c : ErrorCode) : (s.raiseError c).err = true := by
  unfold State.raiseError; split <;> simp_all

@[simp] theorem State.raiseError_errcode (s : State) (c : ErrorCode) :
    (s.raiseError c).errcode = if s.err then s.errcode else c.code := by
  unfold State.raiseError; split <;> rfl

theorem State.raiseError_poisoned (s : State) (c : ErrorCode) (h : s.err = true) : s.raiseError c = s := by
  simp [State.raiseError, h]

end Sys2Proof.Machine
end

