-- ==== Sys2Proof/Laws/Compressor.lean ====
section
/-! SUPPORT. The compression steps: what one leaves of STEP and X, and what COMPRESS leaves of the state. -/

namespace Sys2Proof.Machine

@[simp] theorem Work.advance_step (f : Word → Word → Word → Word) (i : BitVec 6) (w : Work) :
    (w.advance f i).step = w.step + 1 := rfl

@[simp] theorem Work.advance_x (f : Word → Word → Word → Word) (i : BitVec 6) (w : Work) : (w.advance f i).x = w.x := rfl

@[simp] theorem Work.tick_step (w : Work) : w.tick.step = w.step + 1 := by
  unfold Work.tick; split <;> rfl

@[simp] theorem Work.tick_x (w : Work) : w.tick.x = w.x := by
  unfold Work.tick; split <;> rfl

@[simp] theorem Work.strictly_eq (w : Work) (f : Work → Work) : w.strictly f = f w := by simp [Work.strictly]

@[simp] theorem Work.ticks_zero (w : Work) : w.ticks 0 = w := rfl

theorem Work.ticks_tick (n : Nat) (w : Work) : w.ticks (n + 1) = w.tick.ticks n := by simp [Work.ticks]

theorem Work.ticks_add (m n : Nat) (w : Work) : w.ticks (m + n) = (w.ticks m).ticks n := by
  induction m generalizing w with
  | zero => simp
  | succ m ih => rw [Nat.succ_add, Work.ticks_tick, Work.ticks_tick, ih]

theorem Work.ticks_succ (n : Nat) (w : Work) : w.ticks (n + 1) = (w.ticks n).tick := by
  rw [Work.ticks_add, Work.ticks_tick, Work.ticks_zero]

theorem Work.ticks_step (n : Nat) (w : Work) : (w.ticks n).step = w.step + BitVec.ofNat 6 n := by
  induction n generalizing w with
  | zero => simp [Work.ticks]
  | succ n ih =>
    rw [Work.ticks_tick, ih, Work.tick_step]
    apply BitVec.eq_of_toNat_eq
    simp only [BitVec.toNat_add, BitVec.toNat_ofNat]
    rw [show BitVec.toNat (1 : BitVec 6) = 1 from rfl]
    omega

theorem Work.ticks_x (n : Nat) (w : Work) : (w.ticks n).x = w.x := by
  induction n generalizing w with
  | zero => rfl
  | succ n ih => rw [Work.ticks_tick, ih, Work.tick_x]

/-- The step that STEP selects, executed as an instruction, is one tick of the working registers. -/
theorem exec_decodeStep (s : State) :
    exec (decodeStep s.work.step) s = .next { s with work := s.work.tick } := by
  unfold decodeStep Work.tick
  cases stepKind s.work.step <;> rfl

/-! COMPRESS changes the chaining state, the working registers, the marker of a compression, and nothing else. -/

@[simp] theorem State.compress_chain (blk : Vector Byte 64) (s : State) :
    (s.compress blk).chain = s.chain.feed ((s.chain.start blk).ticks 64) := by simp [State.compress]
@[simp] theorem State.compress_work (blk : Vector Byte 64) (s : State) :
    (s.compress blk).work = (s.chain.start blk).ticks 64 := by simp [State.compress]
@[simp] theorem State.compress_compressing (blk : Vector Byte 64) (s : State) :
    (s.compress blk).compressing = false := by simp [State.compress]
@[simp] theorem State.compress_buf (blk : Vector Byte 64) (s : State) : (s.compress blk).buf = s.buf := by
  simp [State.compress]
@[simp] theorem State.compress_pos (blk : Vector Byte 64) (s : State) : (s.compress blk).pos = s.pos := by
  simp [State.compress]
@[simp] theorem State.compress_count (blk : Vector Byte 64) (s : State) : (s.compress blk).count = s.count := by
  simp [State.compress]
@[simp] theorem State.compress_done (blk : Vector Byte 64) (s : State) : (s.compress blk).done = s.done := by
  simp [State.compress]
@[simp] theorem State.compress_err (blk : Vector Byte 64) (s : State) : (s.compress blk).err = s.err := by
  simp [State.compress]
@[simp] theorem State.compress_errcode (blk : Vector Byte 64) (s : State) : (s.compress blk).errcode = s.errcode := by
  simp [State.compress]
@[simp] theorem State.compress_busy (blk : Vector Byte 64) (s : State) : (s.compress blk).busy = s.busy := by
  simp [State.compress]
@[simp] theorem State.compress_pend (blk : Vector Byte 64) (s : State) : (s.compress blk).pend = s.pend := by
  simp [State.compress]
@[simp] theorem State.compress_data (blk : Vector Byte 64) (s : State) : (s.compress blk).data = s.data := by
  simp [State.compress]
@[simp] theorem State.compress_written (blk : Vector Byte 64) (s : State) : (s.compress blk).written = s.written := by
  simp [State.compress]
@[simp] theorem State.compress_params (blk : Vector Byte 64) (s : State) : (s.compress blk).params = s.params := by
  simp [State.compress]
@[simp] theorem State.compress_host (blk : Vector Byte 64) (s : State) : (s.compress blk).host = s.host := by
  simp [State.compress]
@[simp] theorem State.compress_sched (blk : Vector Byte 64) (s : State) : (s.compress blk).sched = s.sched := by
  simp [State.compress]
@[simp] theorem State.compress_reads (blk : Vector Byte 64) (s : State) : (s.compress blk).reads = s.reads := by
  simp [State.compress]
@[simp] theorem State.compress_checks (blk : Vector Byte 64) (s : State) : (s.compress blk).checks = s.checks := by
  simp [State.compress]
@[simp] theorem State.compress_draws (blk : Vector Byte 64) (s : State) : (s.compress blk).draws = s.draws := by
  simp [State.compress]

end Sys2Proof.Machine
end

