-- ==== Sys2Proof/Laws/Decode.lean ====
section
/-! SUPPORT. The byte order of R12: taking a word apart and putting it together. -/

namespace Sys2Proof

/-- The bits of a word put together from four bytes. -/
theorem le32_getLsbD (a b c d : Byte) (i : Nat) :
    (le32 a b c d).getLsbD i = if i < 8 then a.getLsbD i else if i < 16 then b.getLsbD (i - 8)
      else if i < 24 then c.getLsbD (i - 16) else d.getLsbD (i - 24) := by
  simp only [le32, BitVec.getLsbD_or, BitVec.getLsbD_shiftLeft, BitVec.getLsbD_setWidth]
  have ha : 8 ≤ i → a.getLsbD i = false := fun h => BitVec.getLsbD_of_ge _ _ h
  have hb : 16 ≤ i → b.getLsbD (i - 8) = false := fun h => BitVec.getLsbD_of_ge _ _ (by omega)
  have hc : 24 ≤ i → c.getLsbD (i - 16) = false := fun h => BitVec.getLsbD_of_ge _ _ (by omega)
  have hd : 32 ≤ i → d.getLsbD (i - 24) = false := fun h => BitVec.getLsbD_of_ge _ _ (by omega)
  by_cases h₁ : i < 8
  · simp [h₁, show i < 32 by omega, show i < 16 by omega, show i < 24 by omega]
  by_cases h₂ : i < 16
  · simp [h₁, h₂, ha (by omega), show i < 32 by omega, show i - 8 < 32 by omega, show i < 24 by omega]
  by_cases h₃ : i < 24
  · simp [h₁, h₂, h₃, ha (by omega), hb (by omega), show i < 32 by omega, show i - 16 < 32 by omega]
  by_cases h₄ : i < 32
  · simp [h₁, h₂, h₃, h₄, ha (by omega), hb (by omega), hc (by omega), show i - 24 < 32 by omega]
  · simp [h₁, h₂, h₃, h₄, hd (by omega)]

/-- `le32` undoes `le32bytes`. -/
theorem le32_of_le32bytes (w : Word) :
    le32 (w.extractLsb' 0 8) (w.extractLsb' 8 8) (w.extractLsb' 16 8) (w.extractLsb' 24 8) = w := by
  apply BitVec.eq_of_getLsbD_eq
  intro i hi
  rw [le32_getLsbD]
  simp only [BitVec.getLsbD_extractLsb']
  split
  · simp [*]
  split
  · rw [show 8 + (i - 8) = i by omega]; simp; omega
  split
  · rw [show 16 + (i - 16) = i by omega]; simp; omega
  · rw [show 24 + (i - 24) = i by omega]; simp; omega

/-- `le32bytes` undoes `le32`. -/
theorem le32bytes_of_le32 (a b c d : Byte) : le32bytes (le32 a b c d) = [a, b, c, d] := by
  simp only [le32bytes, List.cons.injEq, and_true]
  refine ⟨?_, ?_, ?_, ?_⟩ <;> apply BitVec.eq_of_getLsbD_eq <;> intro i hi <;>
    simp only [BitVec.getLsbD_extractLsb', le32_getLsbD]
  · simp [hi]
  · simp [hi, show 8 + i < 16 by omega]
  · simp [hi, show ¬ 16 + i < 8 by omega, show 16 + i < 24 by omega]
  · simp [hi, show ¬ 24 + i < 8 by omega, show ¬ 24 + i < 16 by omega, show ¬ 24 + i < 24 by omega]

@[simp] theorem le32bytes_length (w : Word) : (le32bytes w).length = 4 := rfl

end Sys2Proof
end

