-- ==== Sys2Proof/Laws/Ops.lean ====
section
/-! SUPPORT. What acceptance, a read and a write of the window can do, said once each. -/

namespace Sys2Proof.Machine

theorem State.ifFresh_cases (s t : State) :
    s.ifFresh t = s ∧ s.err = true ∨
    s.ifFresh t = s.raiseError .seq ∧ s.err = false ∧ s.done = true ∨
    s.ifFresh t = t ∧ s.err = false ∧ s.done = false := by
  unfold State.ifFresh
  split
  · simp_all
  · split <;> simp_all

/-- Acceptance changes nothing, records an error, or puts a command in PEND; the last only when BUSY = 0, and an ABSORB
or a FINAL only on a fresh context. -/
theorem State.accept_cases (v : Word) (s : State) :
    s.accept v = s ∧ s.busy = false ∧ s.err = true ∨
    (∃ c, s.accept v = s.raiseError c) ∨
    s.accept v = s.setPending .nop ∧ s.busy = false ∧ decodeCommand v = .nop ∨
    s.accept v = s.setPending .init ∧ s.busy = false ∧ decodeCommand v = .init ∨
    s.accept v = s.setPending .final ∧ s.busy = false ∧ decodeCommand v = .final ∧ s.err = false ∧ s.done = false ∨
    (∃ len, s.accept v = s.pendAbsorb len ∧ s.busy = false ∧ decodeCommand v = .absorb len ∧ s.err = false ∧
      s.done = false ∧ s.count.toNat + len.toNat ≤ s.params.maxBytes) := by
  unfold State.accept
  split
  · exact .inr (.inl ⟨_, rfl⟩)
  · have hb : s.busy = false := by simpa using ‹¬s.busy = true›
    split
    · exact .inr (.inl ⟨_, rfl⟩)
    · simp_all
    · simp_all
    · rename_i len _
      rcases s.ifFresh_cases (s.acceptAbsorb len) with ⟨h, h'⟩ | ⟨h, -⟩ | ⟨h, h₁, h₂⟩
      · simp_all
      · exact .inr (.inl ⟨_, h⟩)
      · rw [h]
        unfold State.acceptAbsorb
        split
        · exact .inr (.inl ⟨_, rfl⟩)
        · exact .inr (.inr (.inr (.inr (.inr ⟨len, rfl, hb, by assumption, h₁, h₂, by omega⟩))))
    · rcases s.ifFresh_cases (s.raiseError .badLen) with ⟨h, h'⟩ | ⟨h, -⟩ | ⟨h, -⟩
      · simp_all
      · exact .inr (.inl ⟨_, h⟩)
      · exact .inr (.inl ⟨_, h⟩)
    · rcases s.ifFresh_cases (s.setPending .final) with ⟨h, h'⟩ | ⟨h, -⟩ | ⟨h, h₁⟩
      · simp_all
      · exact .inr (.inl ⟨_, h⟩)
      · exact .inr (.inr (.inr (.inr (.inl ⟨h, hb, by assumption, h₁⟩))))

/-! Acceptance changes ERR, ERRCODE, BUSY, PEND and the count of free values drawn, and nothing else. -/

@[simp] theorem State.accept_chain (v : Word) (s : State) : (s.accept v).chain = s.chain := by
  rcases s.accept_cases v with h | ⟨c, h⟩ | h | h | h | ⟨len, h⟩ <;> first | rw [h]; simp | rw [h.1]; try simp
@[simp] theorem State.accept_buf (v : Word) (s : State) : (s.accept v).buf = s.buf := by
  rcases s.accept_cases v with h | ⟨c, h⟩ | h | h | h | ⟨len, h⟩ <;> first | rw [h]; simp | rw [h.1]; try simp
@[simp] theorem State.accept_pos (v : Word) (s : State) : (s.accept v).pos = s.pos := by
  rcases s.accept_cases v with h | ⟨c, h⟩ | h | h | h | ⟨len, h⟩ <;> first | rw [h]; simp | rw [h.1]; try simp
@[simp] theorem State.accept_count (v : Word) (s : State) : (s.accept v).count = s.count := by
  rcases s.accept_cases v with h | ⟨c, h⟩ | h | h | h | ⟨len, h⟩ <;> first | rw [h]; simp | rw [h.1]; try simp
@[simp] theorem State.accept_done (v : Word) (s : State) : (s.accept v).done = s.done := by
  rcases s.accept_cases v with h | ⟨c, h⟩ | h | h | h | ⟨len, h⟩ <;> first | rw [h]; simp | rw [h.1]; try simp
@[simp] theorem State.accept_compressing (v : Word) (s : State) : (s.accept v).compressing = s.compressing := by
  rcases s.accept_cases v with h | ⟨c, h⟩ | h | h | h | ⟨len, h⟩ <;> first | rw [h]; simp | rw [h.1]; try simp
@[simp] theorem State.accept_params (v : Word) (s : State) : (s.accept v).params = s.params := by
  rcases s.accept_cases v with h | ⟨c, h⟩ | h | h | h | ⟨len, h⟩ <;> first | rw [h]; simp | rw [h.1]; try simp
@[simp] theorem State.accept_host (v : Word) (s : State) : (s.accept v).host = s.host := by
  rcases s.accept_cases v with h | ⟨c, h⟩ | h | h | h | ⟨len, h⟩ <;> first | rw [h]; simp | rw [h.1]; try simp
@[simp] theorem State.accept_sched (v : Word) (s : State) : (s.accept v).sched = s.sched := by
  rcases s.accept_cases v with h | ⟨c, h⟩ | h | h | h | ⟨len, h⟩ <;> first | rw [h]; simp | rw [h.1]; try simp
@[simp] theorem State.accept_data (v : Word) (s : State) : (s.accept v).data = s.data := by
  rcases s.accept_cases v with h | ⟨c, h⟩ | h | h | h | ⟨len, h⟩ <;> first | rw [h]; simp | rw [h.1]; try simp
@[simp] theorem State.accept_written (v : Word) (s : State) : (s.accept v).written = s.written := by
  rcases s.accept_cases v with h | ⟨c, h⟩ | h | h | h | ⟨len, h⟩ <;> first | rw [h]; simp | rw [h.1]; try simp
@[simp] theorem State.accept_work (v : Word) (s : State) : (s.accept v).work = s.work := by
  rcases s.accept_cases v with h | ⟨c, h⟩ | h | h | h | ⟨len, h⟩ <;> first | rw [h]; simp | rw [h.1]; try simp
@[simp] theorem State.accept_reads (v : Word) (s : State) : (s.accept v).reads = s.reads := by
  rcases s.accept_cases v with h | ⟨c, h⟩ | h | h | h | ⟨len, h⟩ <;> first | rw [h]; simp | rw [h.1]; try simp
@[simp] theorem State.accept_checks (v : Word) (s : State) : (s.accept v).checks = s.checks := by
  rcases s.accept_cases v with h | ⟨c, h⟩ | h | h | h | ⟨len, h⟩ <;> first | rw [h]; simp | rw [h.1]; try simp

/-- Every command the decoder finds is well formed: an ABSORB's LEN is at most 64. -/
theorem decodeCommand_absorb_le {v : Word} {len : BitVec 7} (h : decodeCommand v = .absorb len) : len.toNat ≤ 64 := by
  unfold decodeCommand at h
  repeat' split at h
  all_goals cases h
  omega

theorem length_flatMap_le32bytes (l : List Word) : (l.flatMap le32bytes).length = 4 * l.length := by
  induction l with
  | nil => rfl
  | cons w l ih => simp [le32bytes] at ih ⊢; omega

/-- The window is 64 bytes long. -/
@[simp] theorem windowBytes_length (words : Vector Word 16) : (windowBytes words).length = 64 := by
  rw [windowBytes, length_flatMap_le32bytes, Vector.length_toList]

@[simp] theorem State.snapshot_length (s : State) (n : Nat) : (s.snapshot n).length = min n 64 := by
  simp [State.snapshot]

/-- A read of the window changes nothing but the count of free values drawn (R58). -/
theorem State.readReg_state (r : Reg) (s : State) : (s.readReg r).2 = s ∨ (s.readReg r).2 = s.drew 1 := by
  cases r <;> simp only [State.readReg, State.anyWhileBusy] <;> (try split) <;> simp

theorem State.busRead_ok {off width : Nat} {s t : State} {v : Word} (h : s.busRead off width = .ok (v, t)) :
    accessFault off width = none ∧ (t = s ∨ t = s.drew 1) ∧ v = (s.readReg (regAt off)).1 := by
  unfold State.busRead at h
  split at h
  · cases h
  · refine ⟨by assumption, ?_, ?_⟩
    · injection h with h
      have := s.readReg_state (regAt off)
      rw [h] at this
      exact this
    · injection h with h
      rw [h]

theorem State.busWrite_ok {off width : Nat} {v : Word} {s t : State} (h : s.busWrite off width v = .ok t) :
    accessFault off width = none ∧ t = s.writeReg (regAt off) v := by
  unfold State.busWrite at h
  split at h
  · cases h
  · exact ⟨by assumption, by injection h with h; exact h.symm⟩

/-- A write to the window accepts a command, stores a DATA register, or does nothing. -/
theorem State.writeReg_cases (r : Reg) (v : Word) (s : State) :
    r = .ctrl ∧ s.writeReg r v = s.accept v ∨
    (∃ k, r = .data k ∧ s.writeReg r v = s.storeData k v) ∨
    s.writeReg r v = s := by
  cases r <;> simp [State.writeReg]

/-- CTRL stands at offset 0 only. -/
theorem regAt_ctrl {off : Nat} : regAt off = .ctrl ↔ off = 0 := by
  unfold regAt
  repeat' split
  all_goals simp_all

/-! A write to the window changes no register of the context and nothing of the host. -/

@[simp] theorem State.writeReg_chain (r : Reg) (v : Word) (s : State) : (s.writeReg r v).chain = s.chain := by
  rcases s.writeReg_cases r v with ⟨-, h⟩ | ⟨k, -, h⟩ | h <;> simp [h]
@[simp] theorem State.writeReg_buf (r : Reg) (v : Word) (s : State) : (s.writeReg r v).buf = s.buf := by
  rcases s.writeReg_cases r v with ⟨-, h⟩ | ⟨k, -, h⟩ | h <;> simp [h]
@[simp] theorem State.writeReg_pos (r : Reg) (v : Word) (s : State) : (s.writeReg r v).pos = s.pos := by
  rcases s.writeReg_cases r v with ⟨-, h⟩ | ⟨k, -, h⟩ | h <;> simp [h]
@[simp] theorem State.writeReg_count (r : Reg) (v : Word) (s : State) : (s.writeReg r v).count = s.count := by
  rcases s.writeReg_cases r v with ⟨-, h⟩ | ⟨k, -, h⟩ | h <;> simp [h]
@[simp] theorem State.writeReg_done (r : Reg) (v : Word) (s : State) : (s.writeReg r v).done = s.done := by
  rcases s.writeReg_cases r v with ⟨-, h⟩ | ⟨k, -, h⟩ | h <;> simp [h]
@[simp] theorem State.writeReg_compressing (r : Reg) (v : Word) (s : State) : (s.writeReg r v).compressing = s.compressing := by
  rcases s.writeReg_cases r v with ⟨-, h⟩ | ⟨k, -, h⟩ | h <;> simp [h]
@[simp] theorem State.writeReg_params (r : Reg) (v : Word) (s : State) : (s.writeReg r v).params = s.params := by
  rcases s.writeReg_cases r v with ⟨-, h⟩ | ⟨k, -, h⟩ | h <;> simp [h]
@[simp] theorem State.writeReg_host (r : Reg) (v : Word) (s : State) : (s.writeReg r v).host = s.host := by
  rcases s.writeReg_cases r v with ⟨-, h⟩ | ⟨k, -, h⟩ | h <;> simp [h]
@[simp] theorem State.writeReg_sched (r : Reg) (v : Word) (s : State) : (s.writeReg r v).sched = s.sched := by
  rcases s.writeReg_cases r v with ⟨-, h⟩ | ⟨k, -, h⟩ | h <;> simp [h]
@[simp] theorem State.writeReg_work (r : Reg) (v : Word) (s : State) : (s.writeReg r v).work = s.work := by
  rcases s.writeReg_cases r v with ⟨-, h⟩ | ⟨k, -, h⟩ | h <;> simp [h]
@[simp] theorem State.writeReg_reads (r : Reg) (v : Word) (s : State) : (s.writeReg r v).reads = s.reads := by
  rcases s.writeReg_cases r v with ⟨-, h⟩ | ⟨k, -, h⟩ | h <;> simp [h]
@[simp] theorem State.writeReg_checks (r : Reg) (v : Word) (s : State) : (s.writeReg r v).checks = s.checks := by
  rcases s.writeReg_cases r v with ⟨-, h⟩ | ⟨k, -, h⟩ | h <;> simp [h]

/-- A write to the window keeps ERR and ERRCODE once ERR = 1, and changes them only from ERR = 0, at CTRL. -/
theorem State.writeReg_err (r : Reg) (v : Word) (s : State) :
    (s.err = true → (s.writeReg r v).err = true ∧ (s.writeReg r v).errcode = s.errcode) ∧
    ((s.writeReg r v).err ≠ s.err ∨ (s.writeReg r v).errcode ≠ s.errcode →
      s.err = false ∧ (s.writeReg r v).err = true ∧ r = .ctrl) := by
  rcases s.writeReg_cases r v with ⟨hr, h⟩ | ⟨k, -, h⟩ | h
  · rw [h]
    rcases s.accept_cases v with h₁ | ⟨c, h₁⟩ | h₁ | h₁ | h₁ | ⟨len, h₁⟩
    · rw [h₁.1]; simp
    · rw [h₁]
      cases he : s.err <;> simp [he, hr]
    all_goals rw [h₁.1]; simp
  · simp [h]
  · simp [h]

/-- The register at DATAk's offset is DATAk, and the access is legal (R31, R52). -/
theorem regAt_data (k : Fin 16) : regAt (0x40 + 4 * k.val) = .data k := by revert k; decide

theorem accessFault_data (k : Fin 16) : accessFault (0x40 + 4 * k.val) 4 = none := by revert k; decide

end Sys2Proof.Machine
end

