-- ==== Sys2Proof/Laws/Update.lean ====
section
/-! SUPPORT. UPDATE: what its slices and its two branches leave unchanged, and the bytes of BUF after it. -/

namespace Sys2Proof.Machine

/-! ## Compressing slices changes the chaining state and the compressor's internals only -/

@[simp] theorem State.compressSlices_buf (n : Nat) (bytes : List Byte) (s : State) :
    (s.compressSlices n bytes).buf = s.buf := by
  induction n generalizing bytes s with
  | zero => simp [State.compressSlices]
  | succ n ih => rw [State.compressSlices, ih, State.compress_buf]
@[simp] theorem State.compressSlices_pos (n : Nat) (bytes : List Byte) (s : State) :
    (s.compressSlices n bytes).pos = s.pos := by
  induction n generalizing bytes s with
  | zero => simp [State.compressSlices]
  | succ n ih => rw [State.compressSlices, ih, State.compress_pos]
@[simp] theorem State.compressSlices_count (n : Nat) (bytes : List Byte) (s : State) :
    (s.compressSlices n bytes).count = s.count := by
  induction n generalizing bytes s with
  | zero => simp [State.compressSlices]
  | succ n ih => rw [State.compressSlices, ih, State.compress_count]
@[simp] theorem State.compressSlices_done (n : Nat) (bytes : List Byte) (s : State) :
    (s.compressSlices n bytes).done = s.done := by
  induction n generalizing bytes s with
  | zero => simp [State.compressSlices]
  | succ n ih => rw [State.compressSlices, ih, State.compress_done]
@[simp] theorem State.compressSlices_err (n : Nat) (bytes : List Byte) (s : State) :
    (s.compressSlices n bytes).err = s.err := by
  induction n generalizing bytes s with
  | zero => simp [State.compressSlices]
  | succ n ih => rw [State.compressSlices, ih, State.compress_err]
@[simp] theorem State.compressSlices_errcode (n : Nat) (bytes : List Byte) (s : State) :
    (s.compressSlices n bytes).errcode = s.errcode := by
  induction n generalizing bytes s with
  | zero => simp [State.compressSlices]
  | succ n ih => rw [State.compressSlices, ih, State.compress_errcode]
@[simp] theorem State.compressSlices_busy (n : Nat) (bytes : List Byte) (s : State) :
    (s.compressSlices n bytes).busy = s.busy := by
  induction n generalizing bytes s with
  | zero => simp [State.compressSlices]
  | succ n ih => rw [State.compressSlices, ih, State.compress_busy]
@[simp] theorem State.compressSlices_pend (n : Nat) (bytes : List Byte) (s : State) :
    (s.compressSlices n bytes).pend = s.pend := by
  induction n generalizing bytes s with
  | zero => simp [State.compressSlices]
  | succ n ih => rw [State.compressSlices, ih, State.compress_pend]
@[simp] theorem State.compressSlices_data (n : Nat) (bytes : List Byte) (s : State) :
    (s.compressSlices n bytes).data = s.data := by
  induction n generalizing bytes s with
  | zero => simp [State.compressSlices]
  | succ n ih => rw [State.compressSlices, ih, State.compress_data]
@[simp] theorem State.compressSlices_written (n : Nat) (bytes : List Byte) (s : State) :
    (s.compressSlices n bytes).written = s.written := by
  induction n generalizing bytes s with
  | zero => simp [State.compressSlices]
  | succ n ih => rw [State.compressSlices, ih, State.compress_written]
@[simp] theorem State.compressSlices_params (n : Nat) (bytes : List Byte) (s : State) :
    (s.compressSlices n bytes).params = s.params := by
  induction n generalizing bytes s with
  | zero => simp [State.compressSlices]
  | succ n ih => rw [State.compressSlices, ih, State.compress_params]
@[simp] theorem State.compressSlices_host (n : Nat) (bytes : List Byte) (s : State) :
    (s.compressSlices n bytes).host = s.host := by
  induction n generalizing bytes s with
  | zero => simp [State.compressSlices]
  | succ n ih => rw [State.compressSlices, ih, State.compress_host]
@[simp] theorem State.compressSlices_sched (n : Nat) (bytes : List Byte) (s : State) :
    (s.compressSlices n bytes).sched = s.sched := by
  induction n generalizing bytes s with
  | zero => simp [State.compressSlices]
  | succ n ih => rw [State.compressSlices, ih, State.compress_sched]
@[simp] theorem State.compressSlices_reads (n : Nat) (bytes : List Byte) (s : State) :
    (s.compressSlices n bytes).reads = s.reads := by
  induction n generalizing bytes s with
  | zero => simp [State.compressSlices]
  | succ n ih => rw [State.compressSlices, ih, State.compress_reads]
@[simp] theorem State.compressSlices_checks (n : Nat) (bytes : List Byte) (s : State) :
    (s.compressSlices n bytes).checks = s.checks := by
  induction n generalizing bytes s with
  | zero => simp [State.compressSlices]
  | succ n ih => rw [State.compressSlices, ih, State.compress_checks]
@[simp] theorem State.compressSlices_draws (n : Nat) (bytes : List Byte) (s : State) :
    (s.compressSlices n bytes).draws = s.draws := by
  induction n generalizing bytes s with
  | zero => simp [State.compressSlices]
  | succ n ih => rw [State.compressSlices, ih, State.compress_draws]

theorem State.compressSlices_compressing (n : Nat) (bytes : List Byte) (s : State) (h : s.compressing = false) :
    (s.compressSlices n bytes).compressing = false := by
  induction n generalizing bytes s with
  | zero => exact h
  | succ n ih => exact ih _ _ (State.compress_compressing _ _)

/-! ## UPDATE changes the context and the model's own fields, never the flags, PEND, DATA or the host -/

@[simp] theorem State.update_done (chunk : List Byte) (s : State) : (s.update chunk).done = s.done := by
  unfold State.update State.updateShort State.updateFull; split <;> simp
@[simp] theorem State.update_err (chunk : List Byte) (s : State) : (s.update chunk).err = s.err := by
  unfold State.update State.updateShort State.updateFull; split <;> simp
@[simp] theorem State.update_errcode (chunk : List Byte) (s : State) : (s.update chunk).errcode = s.errcode := by
  unfold State.update State.updateShort State.updateFull; split <;> simp
@[simp] theorem State.update_busy (chunk : List Byte) (s : State) : (s.update chunk).busy = s.busy := by
  unfold State.update State.updateShort State.updateFull; split <;> simp
@[simp] theorem State.update_pend (chunk : List Byte) (s : State) : (s.update chunk).pend = s.pend := by
  unfold State.update State.updateShort State.updateFull; split <;> simp
@[simp] theorem State.update_data (chunk : List Byte) (s : State) : (s.update chunk).data = s.data := by
  unfold State.update State.updateShort State.updateFull; split <;> simp
@[simp] theorem State.update_written (chunk : List Byte) (s : State) : (s.update chunk).written = s.written := by
  unfold State.update State.updateShort State.updateFull; split <;> simp
@[simp] theorem State.update_params (chunk : List Byte) (s : State) : (s.update chunk).params = s.params := by
  unfold State.update State.updateShort State.updateFull; split <;> simp
@[simp] theorem State.update_host (chunk : List Byte) (s : State) : (s.update chunk).host = s.host := by
  unfold State.update State.updateShort State.updateFull; split <;> simp
@[simp] theorem State.update_sched (chunk : List Byte) (s : State) : (s.update chunk).sched = s.sched := by
  unfold State.update State.updateShort State.updateFull; split <;> simp
@[simp] theorem State.update_reads (chunk : List Byte) (s : State) : (s.update chunk).reads = s.reads := by
  unfold State.update State.updateShort State.updateFull; split <;> simp
@[simp] theorem State.update_checks (chunk : List Byte) (s : State) : (s.update chunk).checks = s.checks := by
  unfold State.update State.updateShort State.updateFull; split <;> simp
@[simp] theorem State.update_count (chunk : List Byte) (s : State) :
    (s.update chunk).count = s.count + BitVec.ofNat 64 chunk.length := by
  unfold State.update State.updateShort State.updateFull; split <;> simp

theorem State.update_compressing (chunk : List Byte) (s : State) (h : s.compressing = false) :
    (s.update chunk).compressing = false := by
  unfold State.update State.updateShort State.updateFull
  split
  · exact h
  · dsimp only
    rw [State.compressSlices_compressing _ _ _ (State.compress_compressing _ _)]

/-- A chunk that leaves room in BUF is copied behind the occupied bytes. -/
theorem State.update_short {chunk : List Byte} {s : State} (h : chunk.length < 64 - s.pos.toNat) :
    s.update chunk = s.updateShort chunk := by simp [State.update, h]

theorem State.update_full {chunk : List Byte} {s : State} (h : ¬chunk.length < 64 - s.pos.toNat) :
    s.update chunk = s.updateFull chunk := by simp [State.update, h]

/-- R124: the new POS is (POS + m) mod 64. -/
theorem State.update_pos (chunk : List Byte) (s : State) :
    (s.update chunk).pos.toNat = (s.pos.toNat + chunk.length) % 64 := by
  have := s.pos.isLt
  unfold State.update
  split
  · simp [State.updateShort]
  · simp only [State.updateFull, BitVec.toNat_ofNat, List.length_drop]
    omega

/-! ## FINAL is UPDATE of the padding -/

@[simp] theorem State.finalize_err (s : State) : s.finalize.err = s.err := by simp [State.finalize]
@[simp] theorem State.finalize_errcode (s : State) : s.finalize.errcode = s.errcode := by simp [State.finalize]
@[simp] theorem State.finalize_busy (s : State) : s.finalize.busy = s.busy := by simp [State.finalize]
@[simp] theorem State.finalize_pend (s : State) : s.finalize.pend = s.pend := by simp [State.finalize]
@[simp] theorem State.finalize_data (s : State) : s.finalize.data = s.data := by simp [State.finalize]
@[simp] theorem State.finalize_written (s : State) : s.finalize.written = s.written := by simp [State.finalize]
@[simp] theorem State.finalize_params (s : State) : s.finalize.params = s.params := by simp [State.finalize]
@[simp] theorem State.finalize_host (s : State) : s.finalize.host = s.host := by simp [State.finalize]
@[simp] theorem State.finalize_sched (s : State) : s.finalize.sched = s.sched := by simp [State.finalize]
@[simp] theorem State.finalize_reads (s : State) : s.finalize.reads = s.reads := by simp [State.finalize]
@[simp] theorem State.finalize_checks (s : State) : s.finalize.checks = s.checks := by simp [State.finalize]
@[simp] theorem State.finalize_done (s : State) : s.finalize.done = true := by simp [State.finalize]

/-- R141: the padding fills BUF to the end of this block or of the next. -/
theorem padLen_eq (pos : BitVec 6) :
    padLen pos.toNat = if pos.toNat ≤ 55 then 64 - pos.toNat else 128 - pos.toNat := by
  unfold padLen
  split <;> split <;> omega

@[simp] theorem padding_length (pos : BitVec 6) (count : BitVec 64) :
    (padding pos.toNat count).length = padLen pos.toNat := by
  have := padLen_eq pos
  simp only [padding, le32bytes, List.length_append, List.length_cons, List.length_nil, List.length_replicate]
  split at this <;> omega

/-! ## The bytes of BUF -/

@[simp] theorem fillBuf_getElem (buf : Vector Byte 64) (p : Nat) (chunk : List Byte) (i : Nat) (h : i < 64) :
    (fillBuf buf p chunk)[i] = if i < p then buf[i] else (chunk[i - p]?).getD buf[i] := by
  simp [fillBuf]

@[simp] theorem tailBuf_getElem (tail : List Byte) (d : Nat) (i : Nat) (h : i < 64) :
    (tailBuf tail d)[i] = (tail[i]?).getD (Config.freeByte (d + i)) := by
  simp [tailBuf]

@[simp] theorem blockOf_getElem (l : List Byte) (i : Nat) (h : i < 64) : (blockOf l)[i] = l.getD i 0 := by
  simp [blockOf]

end Sys2Proof.Machine
end

