-- ==== Sys2Proof/Laws/Step.lean ====
section
/-! SUPPORT. What a turn and a step can do, said once each. -/

namespace Sys2Proof.Machine

/-- An ABSORB's execution, when PEND holds its bytes. -/
theorem execAbsorb_of_pend {s : State} {len : BitVec 7} {l : BitVec 7} {bytes : List Byte}
    (h : s.pend = some (.absorb l bytes)) (hl : bytes.length = len.toNat) :
    execAbsorb len s = .next (s.update bytes).retire := by
  simp [execAbsorb, State.operand, h, hl]

/-- A turn of the engine that answers a next state executes one of the four commands, or has nothing to do. -/
theorem engineTurn_cases {s t : State} (h : engineTurn s = .next t) :
    s.busy = false ∧ t = s ∨
    s.busy = true ∧ s.pend = some .nop ∧ t = s.retire ∨
    s.busy = true ∧ s.pend = some .init ∧ t = s.freshContext.clearError.retire ∨
    (∃ len bytes, s.busy = true ∧ s.pend = some (.absorb len bytes) ∧ bytes.length = len.toNat ∧
      t = (s.update bytes).retire) ∨
    s.busy = true ∧ s.pend = some .final ∧ t = s.finalize.retire := by
  unfold engineTurn at h
  split at h
  · split at h
    · rename_i hb _ p hp
      cases p with
      | nop => exact .inr (.inl ⟨hb, hp, by simpa [Pending.instr, exec, execNop] using h.symm⟩)
      | init => exact .inr (.inr (.inl ⟨hb, hp, by simpa [Pending.instr, exec, execInit] using h.symm⟩))
      | absorb len bytes =>
        refine .inr (.inr (.inr (.inl ⟨len, bytes, hb, hp, ?_⟩)))
        by_cases hl : bytes.length = len.toNat
        · rw [Pending.instr, exec, execAbsorb_of_pend hp hl] at h
          exact ⟨hl, by simpa using h.symm⟩
        · simp [Pending.instr, exec, execAbsorb, State.operand, hp, hl] at h
      | final => exact .inr (.inr (.inr (.inr ⟨hb, hp, by simpa [Pending.instr, exec, execFinal] using h.symm⟩)))
    · cases h
  · exact .inl ⟨by simpa using ‹¬s.busy = true›, by simpa using h.symm⟩

/-- A turn of the host that answers a next state: nothing, a read, an accepted or other write, a POLL, or an EXPECT. -/
theorem hostTurn_cases {s t : State} (h : hostTurn s = .next t) :
    s.host = [] ∧ t = s ∨
    (∃ off width k rest v u, s.host = .read off width k :: rest ∧ s.busRead off width = .ok (v, u) ∧
      t = { u with host := rest, reads := (k, v) :: u.reads }) ∨
    (∃ off width v rest u, s.host = .write off width v :: rest ∧ s.busWrite off width v = .ok u ∧
      t = { u with host := rest }) ∨
    (∃ rest v u, s.host = .poll :: rest ∧ s.busRead 0x04 4 = .ok (v, u) ∧
      t = if s.busy then u else { u with host := rest }) ∨
    (∃ k imm rest, s.host = .expect k imm :: rest ∧
      t = { s with host := rest, checks := s.checks ++ [s.temp k == some imm] }) := by
  unfold hostTurn at h
  split at h
  · exact .inl ⟨by assumption, by simpa using h.symm⟩
  · rename_i op rest hh
    cases op with
    | read off width k =>
      simp only [HostOp.run] at h
      split at h
      · cases h
      · rename_i v u hr
        exact .inr (.inl ⟨off, width, k, rest, v, u, hh, hr, by simpa using h.symm⟩)
    | write off width v =>
      simp only [HostOp.run] at h
      split at h
      · cases h
      · rename_i u hr
        exact .inr (.inr (.inl ⟨off, width, v, rest, u, hh, hr, by simpa using h.symm⟩))
    | poll =>
      simp only [HostOp.run] at h
      split at h
      · cases h
      · rename_i v u hr
        exact .inr (.inr (.inr (.inl ⟨rest, v, u, hh, hr, by simpa using h.symm⟩)))
    | expect k imm =>
      simp only [HostOp.run] at h
      exact .inr (.inr (.inr (.inr ⟨k, imm, rest, hh, by simpa using h.symm⟩)))

/-- A step that answers a next state is a compression step, a host's turn, an engine's turn, or a reset; `u` is the
state with the turn taken. -/
theorem step_cases {s t : State} (h : step s = .next t) :
    s.compressing = true ∧ t = ({ s with work := s.work.tick } : State).afterStep s.work.step ∨
    s.compressing = false ∧ s.sched = [] ∧ s.busy = true ∧ engineTurn s = .next t ∨
    s.compressing = false ∧ s.sched = [] ∧ s.busy = false ∧ hostTurn s = .next t ∨
    (∃ rest, s.compressing = false ∧ s.sched = .host :: rest ∧ hostTurn (s.took rest) = .next t) ∨
    (∃ rest, s.compressing = false ∧ s.sched = .engine :: rest ∧ engineTurn (s.took rest) = .next t) ∨
    (∃ rest, s.compressing = false ∧ s.sched = .reset :: rest ∧ t = (s.took rest).resetEngine) := by
  unfold step at h
  split at h
  · rename_i hc
    refine .inl ⟨hc, ?_⟩
    rw [compressorTurn, exec_decodeStep] at h
    simpa using h.symm
  · have hc : s.compressing = false := by simpa using ‹¬s.compressing = true›
    split at h
    · rename_i hs
      split at h
      · exact .inr (.inl ⟨hc, hs, by assumption, h⟩)
      · exact .inr (.inr (.inl ⟨hc, hs, by simpa using ‹¬s.busy = true›, h⟩))
    · rename_i rest hs
      exact .inr (.inr (.inr (.inl ⟨rest, hc, hs, h⟩)))
    · rename_i rest hs
      exact .inr (.inr (.inr (.inr (.inl ⟨rest, hc, hs, h⟩))))
    · rename_i rest hs
      exact .inr (.inr (.inr (.inr (.inr ⟨rest, hc, hs, by simpa using h.symm⟩))))

end Sys2Proof.Machine
end

