-- ==== Sys2Proof/Laws/Event.lean ====
section
/-! SUPPORT. The inversion of `step`: from a state, with the event it is, every next state there can be. Proofs about
steps take its cases instead of unfolding `step`. -/

namespace Sys2Proof.Machine

/-- `Stepped s e t`: from `s` the event `e` gives `t`; `rest` is what is left of the turns laid down. -/
inductive Stepped (s : State) : Event → State → Prop where
  | compressor (hc : s.compressing = true) :
    Stepped s (.compressor s.work.step) (({ s with work := s.work.tick } : State).afterStep s.work.step)
  | nop (rest : List Turn) (hc : s.compressing = false) (hb : s.busy = true) (hp : s.pend = some .nop) :
    Stepped s (.engine .nop) (s.took rest).retire
  | init (rest : List Turn) (hc : s.compressing = false) (hb : s.busy = true) (hp : s.pend = some .init) :
    Stepped s (.engine .init) (s.took rest).freshContext.clearError.retire
  | absorb (rest : List Turn) (len : BitVec 7) (bytes : List Byte) (hc : s.compressing = false) (hb : s.busy = true)
      (hp : s.pend = some (.absorb len bytes)) (hl : bytes.length = len.toNat) :
    Stepped s (.engine (.absorb len bytes)) ((s.took rest).update bytes).retire
  | final (rest : List Turn) (hc : s.compressing = false) (hb : s.busy = true) (hp : s.pend = some .final) :
    Stepped s (.engine .final) (s.took rest).finalize.retire
  | engineIdle (rest : List Turn) (hc : s.compressing = false) (hb : s.busy = false) :
    Stepped s .engineIdle (s.took rest)
  | hostIdle (rest : List Turn) (hc : s.compressing = false) (hh : s.host = []) :
    Stepped s .hostIdle (s.took rest)
  | read (rest : List Turn) (off width k : Nat) (ops : List HostOp) (v : Word) (u : State)
      (hc : s.compressing = false) (hh : s.host = .read off width k :: ops) (ha : accessFault off width = none)
      (hu : u = s.took rest ∨ u = (s.took rest).drew 1) :
    Stepped s (.host (.read off width k)) { u with host := ops, reads := (k, v) :: u.reads }
  | write (rest : List Turn) (off width : Nat) (v : Word) (ops : List HostOp) (hc : s.compressing = false)
      (hh : s.host = .write off width v :: ops) (ha : accessFault off width = none) :
    Stepped s (.host (.write off width v)) { (s.took rest).writeReg (regAt off) v with host := ops }
  | pollBusy (rest : List Turn) (ops : List HostOp) (hc : s.compressing = false) (hh : s.host = .poll :: ops)
      (hb : s.busy = true) :
    Stepped s (.host .poll) ((s.took rest).drew 1)
  | pollIdle (rest : List Turn) (ops : List HostOp) (hc : s.compressing = false) (hh : s.host = .poll :: ops)
      (hb : s.busy = false) :
    Stepped s (.host .poll) { s.took rest with host := ops }
  | expect (rest : List Turn) (k : Nat) (imm : Word) (ops : List HostOp) (hc : s.compressing = false)
      (hh : s.host = .expect k imm :: ops) :
    Stepped s (.host (.expect k imm)) { s.took rest with host := ops, checks := s.checks ++ [s.temp k == some imm] }
  | reset (rest : List Turn) (hc : s.compressing = false) :
    Stepped s .reset (s.took rest).resetEngine

theorem readReg_status_busy {s : State} (h : s.busy = true) :
    s.busRead 0x04 4 = .ok (s.statusWith ((Config.freeWord s.draws).setWidth 6), s.drew 1) := by
  simp [State.busRead, accessFault, regAt, State.readReg, h]

theorem readReg_status_idle {s : State} (h : s.busy = false) : s.busRead 0x04 4 = .ok (s.statusWith s.pos, s) := by
  simp [State.busRead, accessFault, regAt, State.readReg, h]

theorem engineTurn_stepped {s t : State} (rest : List Turn) (hc : s.compressing = false)
    (h : engineTurn (s.took rest) = .next t) : Stepped s s.engineEvent t := by
  rcases engineTurn_cases h with ⟨hb, rfl⟩ | ⟨hb, hp, rfl⟩ | ⟨hb, hp, rfl⟩ | ⟨len, bytes, hb, hp, hl, rfl⟩ | ⟨hb, hp, rfl⟩
  · rw [show s.engineEvent = .engineIdle by simp_all [State.engineEvent]]
    exact .engineIdle rest hc hb
  · rw [show s.engineEvent = .engine .nop by simp_all [State.engineEvent]]
    exact .nop rest hc hb hp
  · rw [show s.engineEvent = .engine .init by simp_all [State.engineEvent]]
    exact .init rest hc hb hp
  · rw [show s.engineEvent = .engine (.absorb len bytes) by simp_all [State.engineEvent]]
    exact .absorb rest len bytes hc hb hp hl
  · rw [show s.engineEvent = .engine .final by simp_all [State.engineEvent]]
    exact .final rest hc hb hp

theorem hostTurn_stepped {s t : State} (rest : List Turn) (hc : s.compressing = false)
    (h : hostTurn (s.took rest) = .next t) : Stepped s s.hostEvent t := by
  rcases hostTurn_cases h with ⟨hh, rfl⟩ | ⟨off, width, k, ops, v, u, hh, hr, rfl⟩ | ⟨off, width, v, ops, u, hh, hw, rfl⟩ |
    ⟨ops, v, u, hh, hr, rfl⟩ | ⟨k, imm, ops, hh, rfl⟩
  · rw [show s.hostEvent = .hostIdle by simp_all [State.hostEvent]]
    exact .hostIdle rest hc hh
  · rw [show s.hostEvent = .host (.read off width k) by simp_all [State.hostEvent]]
    obtain ⟨ha, hu, -⟩ := State.busRead_ok hr
    exact .read rest off width k ops v u hc hh ha hu
  · rw [show s.hostEvent = .host (.write off width v) by simp_all [State.hostEvent]]
    obtain ⟨ha, rfl⟩ := State.busWrite_ok hw
    exact .write rest off width v ops hc hh ha
  · rw [show s.hostEvent = .host .poll by simp_all [State.hostEvent]]
    by_cases hb : s.busy = true
    · rw [readReg_status_busy (by exact hb)] at hr
      injection hr with hr
      injection hr with _ hu
      subst hu
      rw [if_pos (by exact hb)]
      exact .pollBusy rest ops hc hh hb
    · have hb : s.busy = false := by simpa using hb
      rw [readReg_status_idle (by exact hb)] at hr
      injection hr with hr
      injection hr with _ hu
      subst hu
      rw [if_neg (by simpa using hb)]
      exact .pollIdle rest ops hc hh hb
  · rw [show s.hostEvent = .host (.expect k imm) by simp_all [State.hostEvent]]
    exact .expect rest k imm ops hc hh

/-- Every step that answers a next state is one of the cases above, by the event it is. -/
theorem step_stepped {s t : State} (h : step s = .next t) : Stepped s s.event t := by
  unfold State.event
  rcases step_cases h with ⟨hc, rfl⟩ | ⟨hc, hs, hb, h⟩ | ⟨hc, hs, hb, h⟩ | ⟨rest, hc, hs, h⟩ | ⟨rest, hc, hs, h⟩ |
    ⟨rest, hc, hs, rfl⟩
  · simpa [hc] using Stepped.compressor hc
  · simp only [hc, hs, hb, if_true, if_false, Bool.false_eq_true]
    exact engineTurn_stepped [] hc (by rw [← hs]; exact h)
  · simp only [hc, hs, hb, if_false, Bool.false_eq_true]
    exact hostTurn_stepped [] hc (by rw [← hs]; exact h)
  · simp only [hc, hs, if_false, Bool.false_eq_true]
    exact hostTurn_stepped rest hc h
  · simp only [hc, hs, if_false, Bool.false_eq_true]
    exact engineTurn_stepped rest hc h
  · simp only [hc, hs, if_false, Bool.false_eq_true]
    exact .reset rest hc

end Sys2Proof.Machine
end

