-- ==== Sys2Proof/Laws/PerInstr.lean ====
section
/-! SUPPORT. Statements about every instruction as syntax, one lemma per constructor.
EncodeLength: an instruction's encoding has the length of its format, four bytes for a command word (R74) and one for a
step index (R77). -/

namespace Sys2Proof.Laws.EncodeLength

/-- The length of an encoding. -/
def Statement (i : Instr) : Prop :=
  (encode i).length = match i.format with
    | .cmd => 4
    | .step => 1

theorem nop : Statement .nop := rfl
theorem init : Statement .init := rfl
theorem absorb (len : BitVec 7) : Statement (.absorb len) := rfl
theorem final : Statement .final := rfl
theorem stepF (posn : BitVec 4) : Statement (.stepF posn) := rfl
theorem stepG (posn : BitVec 4) : Statement (.stepG posn) := rfl
theorem stepH (posn : BitVec 4) : Statement (.stepH posn) := rfl
theorem stepI (posn : BitVec 4) : Statement (.stepI posn) := rfl

end Sys2Proof.Laws.EncodeLength
end

