-- ==== Sys2Proof/Tests/Slice0.lean ====
section
/-! SUPPORT. Tests on the spec's own vectors (95_test_vectors.md; each test names its vector), and for every obligation
with hypotheses a concrete state that meets them. -/

namespace Sys2Proof.Tests

open Sys2Proof.Machine

-- The theorems below are checked one after another: each kernel evaluation waits for those before it, and Lean would
-- otherwise hold one waiting thread for each.
set_option Elab.async false

/-! ## Small states -/

/-- A fresh context on an idle engine, every DATA register written with four bytes 'a'. -/
def idle : State :=
  { State.reset with
    buf := Vector.replicate 64 0
    data := Vector.replicate 16 0x61616161
    written := Vector.replicate 16 true }

/-- `idle` with a command pending. -/
def pending (p : Pending) : State := idle.setPending p

/-- `idle` with a host program. -/
def hosted (ops : List HostOp) : State := { idle with host := ops }

/-- `idle` after FINAL: DONE = 1. -/
def finished : State := { idle with done := true }

/-- `idle` with an error recorded: ERR = 1, ERRCODE = 4. -/
def poisoned : State := { idle with err := true, errcode := 4 }

/-- n bytes 'a'. -/
def as (n : Nat) : List Byte := List.replicate n 0x61

/-- What an outcome's next state shows through f; none after a fault or a refusal. -/
def see {α : Type} (f : State → α) (o : Host.Outcome State Fault Refusal) : Option α :=
  match o with
  | .next t => some (f t)
  | .fault _ => none
  | .refused _ => none

/-- The fault an outcome is, if it is one. -/
def stopOf (o : Host.Outcome State Fault Refusal) : Option Fault :=
  match o with
  | .next _ => none
  | .fault r => some r
  | .refused _ => none

/-- There is a next state. -/
def goesOn (o : Host.Outcome State Fault Refusal) : Bool := (see (fun _ => ()) o).isSome

/-- An outcome that goes on has a next state, as the obligations' hypotheses ask for one. -/
theorem next_of_goesOn {o : Host.Outcome State Fault Refusal} (h : goesOn o = true) : ∃ t, o = .next t := by
  cases o with
  | next t => exact ⟨t, rfl⟩
  | fault r => cases h
  | refused r => cases h

/-- STATUS as a state with BUSY = 0 shows it (R33). -/
def status (s : State) : Word := s.statusWith s.pos

/-! ## WellFormed: the one check of R72 -/

theorem test_absorb_64_is_well_formed : Instr.wf (.absorb 64) = true := by decide
theorem test_absorb_65_is_refused : Instr.wf (.absorb 65) = false := by decide

/-! ## Decoding (V30-1, V30-3; the words are the spec's) -/

theorem test_decode_nop : decodeTableWord 32 0x00000000 = some .nop := by decide
theorem test_decode_init : decodeTableWord 32 0x00000001 = some .init := by decide
theorem test_decode_absorb_3 : decodeTableWord 32 0x00000302 = some (.absorb 3) := by decide
theorem test_decode_absorb_43 : decodeTableWord 32 0x00002B02 = some (.absorb 43) := by decide
theorem test_decode_final : decodeTableWord 32 0x00000003 = some .final := by decide
theorem test_decode_step_f : decodeTableWord 8 0b001111 = some (.stepF 15) := by decide
theorem test_decode_step_g : decodeTableWord 8 0b010000 = some (.stepG 0) := by decide
theorem test_decode_step_h : decodeTableWord 8 0b100000 = some (.stepH 0) := by decide
theorem test_decode_step_i : decodeTableWord 8 0b111111 = some (.stepI 15) := by decide
theorem test_decode_illegal :
    [0x00000004, 0x0000000F, 0x00000010, 0x00000012, 0x00008002, 0x00000101, 0x00000103, 0x00004000, 0x80000000,
      0xFFFFFFFF].map decodeCommand = List.replicate 10 .illegal := by decide
theorem test_decode_bad_length : [0x00004102, 0x00007F02].map decodeCommand = [.badLen, .badLen] := by decide

/-! ## The compressor -/

/-- V40-1. -/
theorem test_rotl :
    rotl 0x80000001 1 = 0x00000003 ∧ rotl 0x12345678 4 = 0x23456781 ∧ rotl 0x12345678 0 = 0x12345678 ∧
    rotl 0x00000001 31 = 0x80000000 ∧ rotl 0xDEADBEEF 16 = 0xBEEFDEAD := by decide

/-- V40-2, the last two rows. -/
theorem test_round_functions :
    roundF 0xefcdab89 0x98badcfe 0x10325476 = 0x98badcfe ∧ roundG 0xefcdab89 0x98badcfe 0x10325476 = 0x88888888 ∧
    roundH 0xefcdab89 0x98badcfe 0x10325476 = 0x67452301 ∧ roundI 0xefcdab89 0x98badcfe 0x10325476 = 0x77777777 ∧
    roundF 0xF0F0F0F0 0xCCCCCCCC 0xAAAAAAAA = 0xCACACACA ∧ roundG 0xF0F0F0F0 0xCCCCCCCC 0xAAAAAAAA = 0xE4E4E4E4 ∧
    roundH 0xF0F0F0F0 0xCCCCCCCC 0xAAAAAAAA = 0x96969696 ∧ roundI 0xF0F0F0F0 0xCCCCCCCC 0xAAAAAAAA = 0x39393939 := by
  decide

/-- V40-3: the padded block of "abc". -/
theorem test_message_parse :
    let x := parseBlock (blockOf ([0x61, 0x62, 0x63] ++ padding 3 3))
    x[0] = 0x80636261 ∧ x[14] = 0x00000018 ∧ x[13] = 0 ∧ x[15] = 0 := by decide +kernel

/-- `idle` with working registers and X[0] given. -/
def working (a b c d x : Word) : State :=
  { idle with work := { a := a, b := b, c := c, d := d, step := 0, x := (Vector.replicate 16 0).set 0 x } }

/-- The working registers. -/
def abcd (s : State) : Word × Word × Word × Word := (s.work.a, s.work.b, s.work.c, s.work.d)

/-- V40-5, step 0. -/
theorem test_step_f : see abcd (exec (.stepF 0) (working 0x67452301 0xefcdab89 0x98badcfe 0x10325476 0x00000080)) =
    some (0x10325476, 0xa5202774, 0xefcdab89, 0x98badcfe) := by decide +kernel
/-- V40-5, step 16. -/
theorem test_step_g : see abcd (exec (.stepG 0) (working 0xf56c7cf1 0xd6819c6a 0x5aa53f75 0x374943a7 0x00000080)) =
    some (0x374943a7, 0x1c7d7513, 0xd6819c6a, 0x5aa53f75) := by decide +kernel
/-- V40-5, step 32. -/
theorem test_step_h : see abcd (exec (.stepH 0) (working 0x13707036 0xa2205f1f 0x1c31c384 0xae7813db 0x00000080)) =
    some (0xae7813db, 0xdf63eaa1, 0xa2205f1f, 0x1c31c384) := by decide +kernel
/-- V40-5, step 48. -/
theorem test_step_i : see abcd (exec (.stepI 0) (working 0x3f55edfd 0xca7d2dbd 0x68d84ea2 0x22a31f54 0x00000080)) =
    some (0x22a31f54, 0x93aa2577, 0xca7d2dbd, 0x68d84ea2) := by decide +kernel
/-- V40-7, step 15: STEP_F at its last position. -/
theorem test_step_f_15 : see abcd (exec (.stepF 15) (working 0x70768a29 0x5aa53f75 0x374943a7 0xf56c7cf1 0x00000080)) =
    some (0xf56c7cf1, 0xd6819c6a, 0x5aa53f75, 0x374943a7) := by decide +kernel
/-- V40-7, step 31: STEP_G at its last position. -/
theorem test_step_g_15 : see abcd (exec (.stepG 15) (working 0xa0572807 0x1c31c384 0xae7813db 0x13707036 0x00000080)) =
    some (0x13707036, 0xa2205f1f, 0x1c31c384, 0xae7813db) := by decide +kernel
/-- V40-7, step 47: STEP_H at its last position. -/
theorem test_step_h_15 : see abcd (exec (.stepH 15) (working 0x0fe32453 0x68d84ea2 0x22a31f54 0x3f55edfd 0x00000080)) =
    some (0x3f55edfd, 0xca7d2dbd, 0x68d84ea2, 0x22a31f54) := by decide +kernel
/-- V40-7, step 63: STEP_I at its last position. -/
theorem test_step_i_15 : see abcd (exec (.stepI 15) (working 0x30130182 0xff4ea3eb 0x6e10a476 0x7246fad3 0x00000080)) =
    some (0x7246fad3, 0x14e45506, 0xff4ea3eb, 0x6e10a476) := by decide +kernel

/-- V40-6: COMPRESS on two chaining states. -/
theorem test_compress :
    (idle.compress (Vector.replicate 64 0xFF)).chain =
      { a := 0x561987b4, b := 0x493e9151, c := 0xbdc6554b, d := 0x015c40df } ∧
    (({ idle with chain := { a := 0, b := 0, c := 0, d := 0 } } : State).compress (Vector.replicate 64 0)).chain =
      { a := 0xf7cd1c97, b := 0xa5483681, c := 0x2b68d832, d := 0xf90ca639 } := by decide +kernel

/-! ## The commands -/

/-- R125: NOP ends with BUSY = 0 and nothing else changed, DONE = 1 or not. -/
theorem test_nop : see status (exec .nop (finished.setPending .nop)) = some 0x00000002 := by decide +kernel

/-- V41-4: INIT on the poisoned context of P5, step 7 (STATUS 0x345). -/
theorem test_init : see (fun t => (status t, t.count, t.chain))
    (exec .init { poisoned with pend := some .init, busy := true, pos := 3, count := 3 }) =
    some (0x00000000, 0, { a := 0x67452301, b := 0xefcdab89, c := 0x98badcfe, d := 0x10325476 }) := by decide +kernel

/-- The worked example of R123. -/
theorem test_absorb_abc : see (fun t => (status t, t.count, t.tail, t.chain == Chain.iv))
    (exec (.absorb 3) (pending (.absorb 3 [0x61, 0x62, 0x63]))) = some (0x00000300, 3, [0x61, 0x62, 0x63], true) := by
  decide +kernel

/-- V41-2: the carry of COUNT, at a full block. -/
theorem test_absorb_carry : see (fun t => (t.pos, t.count))
    (exec (.absorb 1) { pending (.absorb 1 [0x61]) with pos := 63, count := 0xFFFFFFFF }) =
    some (0, 0x100000000) := by decide +kernel

/-- V42-3, L = 0 (P1): FINAL on a fresh context. -/
theorem test_final_empty : see (fun t => (status t, t.count, t.chain)) (exec .final (pending .final)) =
    some (0x00000002, 64, { a := 0xd98c1dd4, b := 0x04b2008f, c := 0x980980e9, d := 0x7e42f8ec }) := by decide +kernel

/-- V42-3, L = 56: the padding runs into a second block (digest 3b0c8ac703f828b04c6c197006d17218). -/
theorem test_final_two_blocks : see (fun t => (t.chain.bytes, t.count, t.pos))
    (exec .final { pending .final with buf := Vector.replicate 64 0x61, pos := 56, count := 56 }) =
    some ([0x3b, 0x0c, 0x8a, 0xc7, 0x03, 0xf8, 0x28, 0xb0, 0x4c, 0x6c, 0x19, 0x70, 0x06, 0xd1, 0x72, 0x18], 128, 0) := by
  decide +kernel

/-- V42-1. -/
theorem test_pad_length : [0, 1, 55, 56, 57, 63].map padLen = [64, 63, 9, 72, 71, 65] := by decide

/-- V42-2: the length field at L = 0xFFFFFFFF, with its carry into the high word. -/
theorem test_length_field :
    (padding 63 0xFFFFFFFF).drop 57 = [0xf8, 0xff, 0xff, 0xff, 0x07, 0x00, 0x00, 0x00] := by decide +kernel

/-- V42-3, L = 66: the message of P3 and C1 through the reference function (digest def5d97e...). -/
theorem test_message_66 : (refMd5 (as 66)).bytes =
    [0xde, 0xf5, 0xd9, 0x7e, 0x01, 0xe1, 0x21, 0x9f, 0xb2, 0xfc, 0x8d, 0xa6, 0xc4, 0xd6, 0xba, 0x2f] := by
  decide +kernel

/-! ## Acceptance and errors -/

/-- V41-3: bits 7:0 of STATUS right after the CTRL write. -/
theorem test_accept : [0x00000000, 0x00000001, 0x00000002, 0x00000302, 0x00004002, 0x00000003].map
    (fun v => (status (idle.accept v)).extractLsb' 0 8) = List.replicate 6 0x01 := by decide +kernel

/-- V60-1, rows 1 to 3, and V60-2, the first sentence: STATUS after the write. -/
theorem test_errors : status (idle.accept 0x00000004) = 0x00000014 ∧ status (idle.accept 0x00004102) = 0x00000024 ∧
    status (finished.accept 0x00000002) = 0x00000036 ∧ status (finished.accept 0x00004102) = 0x00000036 := by
  decide +kernel

/-- V60-1, row 4, with the second sentence of V60-2. -/
theorem test_busy_write : (status ((pending (.absorb 3 (as 3))).accept 0x00000003)).extractLsb' 0 8 = 0x45 ∧
    poisoned.accept 0x00000003 = poisoned := ⟨by decide +kernel, rfl⟩

/-- V60-3: MAX_BYTES = 100 at COUNT = 64, and MAX_BYTES = 0. -/
theorem test_limit :
    let at64 : State := { idle with count := 64, params := { maxBytes := 100 } }
    let none : State := { idle with params := { maxBytes := 0 } }
    (at64.accept 0x00002402).busy = true ∧ status (at64.accept 0x00002502) = 0x00000054 ∧
    (none.accept 0x00000002).busy = true ∧ status (none.accept 0x00000102) = 0x00000054 ∧
    (none.accept 0x00000003).busy = true := by decide +kernel

/-- V60-4: the three bus errors, and an access outside the window (R51). -/
theorem test_bus_errors : stopOf (step (hosted [.write 0x00 1 0])) = some .busError ∧
    stopOf (step (hosted [.read 0x02 4 0])) = some .busError ∧ stopOf (step (hosted [.read 0x04 2 0])) = some .busError ∧
    stopOf (step (hosted [.read 0x80 4 0])) = some .outsideWindow := by decide +kernel

/-- V30-2: LOAD "abc", "aaaa" and "aa". -/
theorem test_load : pseudoLoad [0x61, 0x62, 0x63] = [.write 0x40 4 0x00636261] ∧
    pseudoLoad (as 4) = [.write 0x40 4 0x61616161] ∧ pseudoLoad (as 2) = [.write 0x40 4 0x00006161] := by decide +kernel

/-- R81: ABSORB 43 writes 0x00002B02. -/
theorem test_pseudo_absorb : pseudoAbsorb 43 = [.write 0x00 4 0x00002B02, .poll] := by decide

/-- R80: one RD, and one EXPECT on what it read (STATUS of `idle` is 0). -/
theorem test_read_and_expect : see (fun t => t.temp 4) (step (hosted [.read 0x04 4 4])) = some (some 0x00000000) ∧
    see (fun t => t.checks) (step { hosted [.expect 4 0x300] with reads := [(4, 0x300)] }) = some [true] := by
  decide +kernel

/-- V70-1: what reads after reset; V70-2: a reset discards the pending command. -/
theorem test_reset : status State.reset = 0x00000000 ∧ State.reset.count = 0 ∧
    State.reset.chain = { a := 0x67452301, b := 0xefcdab89, c := 0x98badcfe, d := 0x10325476 } ∧
    see (fun t => (t.busy, t.pend)) (step { pending (.absorb 64 (as 64)) with sched := [.reset] }) = some (false, none) := by
  decide +kernel

/-! ## Witnesses: states that meet the obligations' hypotheses -/

/-- EveryStepKeepsTheContextInvariant, ExecutionNeverFails: the invariant holds in a state with an ABSORB pending, at its
largest length. -/
theorem witness_inv_absorb : (pending (.absorb 64 (as 64))).Inv where
  notCompressing := rfl
  busyIffPending := rfl
  pendingLength := by
    intro len bytes h
    simp only [pending, State.setPending_pend, Option.some.injEq, Pending.absorb.injEq] at h
    obtain ⟨rfl, rfl⟩ := h
    decide
  pendingFresh := fun _ => rfl
  pendingFits := by
    intro len bytes h
    simp only [pending, State.setPending_pend, Option.some.injEq, Pending.absorb.injEq] at h
    obtain ⟨rfl, rfl⟩ := h
    decide
  posOfCount := rfl
  posOfDone := fun _ => rfl
  errcodeKnown := by decide
  errcodeOfErr := by decide
  maxBytesLegal := by decide
  countBound := by decide

/-- The same in a state with no command pending, a host program and DONE = 1. -/
theorem witness_inv_finished (ops : List HostOp) : ({ finished with host := ops } : State).Inv where
  notCompressing := rfl
  busyIffPending := rfl
  pendingLength := fun _ _ h => by cases h
  pendingFresh := fun h => by rcases h with h | ⟨_, _, h⟩ <;> cases h
  pendingFits := fun _ _ h => by cases h
  posOfCount := rfl
  posOfDone := fun _ => rfl
  errcodeKnown := by show finished.errcode.toNat ≤ 5; decide +kernel
  errcodeOfErr := by show finished.err = true ↔ finished.errcode ≠ 0; decide +kernel
  maxBytesLegal := by show finished.params.maxBytes ≤ 2 ^ 61 - 1; decide +kernel
  countBound := by show finished.count.toNat ≤ finished.params.maxBytes + if finished.done then 72 else 0; decide +kernel

theorem witness_DecodeOfEncodeGivesTheInstruction : Instr.wf (.absorb 0) = true ∧ Instr.wf (.absorb 64) = true ∧
    Instr.wf (.stepI 15) = true := by decide

theorem witness_DecodedBytesAreTheEncoding : decodeBytes [0x02, 0x40, 0x00, 0x00] = .ok (.absorb 64) ∧
    decodeBytes [0x3F] = .ok (.stepI 15) := ⟨rfl, rfl⟩

theorem witness_EveryCommandWordIsDecodedAsTheRuleSays : idle.busy = false ∧ idle.err = false ∧ idle.done = false ∧
    decodeCommand 0x00000004 = .illegal ∧ decodeCommand 0x00004102 = .badLen := by decide +kernel

theorem witness_EngineStepExecutesThePendingCommand :
    (pending .nop).compressing = false ∧ (pending .nop).busy = true ∧ (pending .nop).pend = some .nop ∧
    (pending .nop).sched = [] ∧ ({ pending .nop with sched := [.engine, .host] } : State).sched = [.engine, .host] ∧
    idle.busy = false ∧ ({ idle with sched := [.engine] } : State).sched = [.engine] ∧
    (pending (.absorb 0 [])).pend = some (.absorb 0 []) ∧
    (pending (.absorb 64 (as 64))).pend = some (.absorb 64 (as 64)) ∧ (as 64).length = (64 : BitVec 7).toNat := by
  decide +kernel

theorem witness_StepRunsTheDecodedCommand : 8 < 32 ∧ 0x00004002 < 2 ^ 32 ∧
    decodeTableWord 32 0x00004002 = some (.absorb 64) ∧
    see (fun t => t.count) (step (State.reset.withFetchWord 32 0x00004002)) = some 64 := by decide +kernel

theorem witness_StepRunsTheStepThatStepSelects : (idle.beginCompress (Vector.replicate 64 0)).compressing = true ∧
    ({ idle with compressing := true, work := { Work.zero with step := 63 } } : State).work.step = 63 ∧
    decodeTableWord 8 0b111111 = some (.stepI 15) ∧
    see (fun t => t.compressing) (step (State.reset.withFetchWord 8 0b111111)) = some false := by decide +kernel

theorem witness_AcceptedCommandIsTheOneExecuted :
    let s := hosted [.write 0x00 4 0x00004002]
    s.compressing = false ∧ s.sched = [] ∧ s.busy = false ∧ s.pend = none ∧ s.host = .write 0x00 4 0x00004002 :: [] ∧
    (s.accept 0x00004002).pend = some (.absorb 64 (as 64)) := by decide +kernel

/-- Each of the five ways in which the chaining state changes. -/
theorem witness_ChainingStateChangesOnlyAsTheRuleSays :
    let other : State := { idle with chain := { a := 1, b := 2, c := 3, d := 4 } }
    let changed := fun s : State => see (fun t => decide (t.chain ≠ s.chain)) (step s) = some true
    (changed { other with sched := [.reset] } ∧ ({ other with sched := [.reset] } : State).event = .reset) ∧
    (changed (other.setPending .init) ∧ (other.setPending .init).event = .engine .init) ∧
    (changed (pending (.absorb 64 (as 64))) ∧ (pending (.absorb 64 (as 64))).event = .engine (.absorb 64 (as 64))) ∧
    (changed (pending .final) ∧ (pending .final).event = .engine .final) ∧
    (changed { other with compressing := true, work := { Work.zero with step := 63 } } ∧
      ({ other with compressing := true, work := { Work.zero with step := 63 } } : State).event = .compressor 63) := by
  decide +kernel

theorem witness_StaleBytesAreNeverRead : SameButStale { idle with pos := 3 }
    { idle with pos := 3, buf := (Vector.replicate 64 0).set 3 1 } ∧
    ({ idle with pos := 3, buf := (Vector.replicate 64 0).set 3 1 } : State).buf ≠ idle.buf := by
  refine ⟨⟨rfl, ?_⟩, ?_⟩ <;> decide +kernel

theorem witness_CountNeverDecreasesBetweenInits : (pending (.absorb 64 (as 64))).Inv ∧
    goesOn (step (pending (.absorb 64 (as 64)))) = true ∧ (pending (.absorb 64 (as 64))).event ≠ .reset ∧
    (pending (.absorb 64 (as 64))).event ≠ .engine .init :=
  ⟨witness_inv_absorb, by decide +kernel, by decide +kernel, by decide +kernel⟩

theorem witness_DoneIsSetByFinalAndClearedByInitAndReset :
    goesOn (step (pending .final)) = true ∧ (pending .final).event = .engine .final ∧
    goesOn (step (pending .init)) = true ∧ (pending .init).event = .engine .init ∧
    goesOn (step { finished with sched := [.reset] }) = true ∧ ({ finished with sched := [.reset] } : State).event = .reset ∧
    goesOn (step (pending .nop)) = true ∧ (pending .nop).event = .engine .nop :=
  ⟨by decide +kernel, rfl, by decide +kernel, rfl, by decide +kernel, rfl, by decide +kernel, rfl⟩

/-- ERR set by a write, kept by a step, and cleared by INIT. -/
theorem witness_FirstErrorStaysUntilInitOrReset :
    see (fun t => (t.err, t.errcode)) (step (hosted [.write 0x00 4 0x00000004])) = some (true, 1) ∧
    (hosted [.write 0x00 4 0x00000004]).event = .host (.write 0x00 4 0x00000004) ∧
    see (fun t => t.err) (step { poisoned with host := [.write 0x00 4 0x00000004] }) = some true ∧
    see (fun t => t.err) (step (poisoned.setPending .init)) = some false ∧
    (poisoned.setPending .init).event = .engine .init := by decide +kernel

theorem witness_DataWindowIsLittleEndianAndOnlyTheHostsToWrite :
    see (fun t => decide (t.data ≠ idle.data)) (step (hosted [.write 0x7C 4 0x01020304])) = some true ∧
    (∀ k : Fin 16, 4 * k.val < 64 → idle.written[k] = true) ∧
    (∀ k : Fin 16, 4 * k.val < 64 → (Vector.replicate 16 0x61616161)[k] = idle.data[k]) := by decide +kernel

theorem witness_StatusShowsTheFlags : idle.busy = false ∧ (pending .nop).busy = true := by decide +kernel

theorem witness_DigestBytesStandInAddressOrder : finished.busy = false ∧ (0 : Nat) < 16 ∧ (15 : Nat) < 16 := by
  decide +kernel

theorem witness_NothingInternalIsReadWhileBusy : (pending .final).busy = true := by decide +kernel

theorem witness_EveryStepKeepsTheContextInvariant : (pending (.absorb 64 (as 64))).Inv ∧
    goesOn (step (pending (.absorb 64 (as 64)))) = true ∧ ({ finished with host := [.poll] } : State).Inv ∧
    goesOn (step { finished with host := [.poll] }) = true :=
  ⟨witness_inv_absorb, by decide +kernel, witness_inv_finished _, by decide +kernel⟩

/-- The boundary offsets of each clause. -/
theorem witness_WindowReadsAndWritesFollowTheRegisterMap : 0x04 % 4 = 0 ∧ 0x3C % 4 = 0 ∧ 0x3C ≤ 0x3C ∧ 0x20 ≤ 0x3C ∧
    0x7C % 4 = 0 ∧ 0x7C ≤ 0x7C ∧ regAt 0x3C = .reserved ∧ regAt 0x40 = .data 0 ∧ regAt 0x7C = .data 15 ∧
    idle.busy = false ∧ idle.written[15] = true := by decide +kernel

theorem witness_OnlyAlignedWordAccessesAreServed : 0x7C < 0x80 ∧ (2 ≠ 4 ∨ 0x7C % 4 ≠ 0) ∧ (4 ≠ 4 ∨ 0x7D % 4 ≠ 0) ∧
    0x80 ≤ 0x80 ∧ (hosted [.read 0x7D 4 0]).host = .read 0x7D 4 0 :: [] ∧
    (hosted [.write 0x00 1 0]).host = .write 0x00 1 0 :: [] ∧ (hosted []).sched = [] ∧ (hosted []).busy = false ∧
    (hosted []).compressing = false := by decide +kernel

theorem witness_ReadsHaveNoSideEffects : (hosted [.read 0x04 4 0]).event = .host (.read 0x04 4 0) ∧
    goesOn (step (hosted [.read 0x04 4 0])) = true ∧
    idle.busWrite (0x40 + 4 * (15 : Fin 16).val) 4 7 = .ok (idle.storeData 15 7) := ⟨rfl, by decide +kernel, by decide +kernel⟩

/-- With host turns before the engine's. -/
theorem witness_AcceptedCommandIsExecutedInTime :
    (pending (.absorb 64 (as 64))).Inv ∧ (pending (.absorb 64 (as 64))).busy = true ∧
    (∀ op ∈ (pending (.absorb 64 (as 64))).host, op.legal = true) ∧
    (∀ op ∈ (hosted [.read 0x7C 4 0, .write 0x00 4 0, .poll]).host, op.legal = true) :=
  ⟨witness_inv_absorb, rfl, by decide, by decide +kernel⟩

theorem witness_LaterDataWritesDoNotReachAPendingCommand :
    idle.busy = false ∧ idle.pend = none ∧ (idle.accept 0x00004002).pend = some (.absorb 64 (as 64)) ∧
    (pending (.absorb 64 (as 64))).pend = some (.absorb 64 (as 64)) ∧
    goesOn (exec (.absorb 64) (pending (.absorb 64 (as 64)))) = true := ⟨rfl, rfl, by decide +kernel, rfl, by decide +kernel⟩

theorem witness_RotlMovesEveryBit : rotl 0x00000001 31 = 0x80000000 ∧ rotl 0x80000000 7 = 0x00000040 ∧ 31 ≤ 31 := by
  decide

theorem witness_RoundFunctionsWorkBitByBit : (roundF 0x80000000 0x80000000 0).getLsbD 31 = true ∧ 31 < 32 := by decide

theorem witness_AcceptanceChecksInTheOrderOfTheRule :
    let at64 : State := { idle with count := 64, params := { maxBytes := 100 } }
    (pending .nop).busy = true ∧ idle.busy = false ∧ idle.err = false ∧ idle.done = false ∧ poisoned.err = true ∧
    finished.done = true ∧ finished.err = false ∧
    (0x00000010 : Word).extractLsb' 4 4 ≠ 0 ∧ (0x00008002 : Word).extractLsb' 15 17 ≠ 0 ∧
    4 ≤ ((0x00000004 : Word).extractLsb' 0 4).toNat ∧ (0x00000101 : Word).extractLsb' 8 7 ≠ 0 ∧
    ((0x00004102 : Word).extractLsb' 8 7).toNat = 65 ∧ ((0x00004002 : Word).extractLsb' 8 7).toNat = 64 ∧
    at64.params.maxBytes < at64.count.toNat + 37 ∧ at64.count.toNat + 36 ≤ at64.params.maxBytes := by decide +kernel

theorem witness_InitStartsAFreshContext : (0x00000101 : Word).extractLsb' 0 4 = 1 ∧ (0x00000101 : Word) ≠ 0x00000001 ∧
    idle.busy = false ∧ (pending .init).busy = true := by decide +kernel

theorem witness_NopHasNoEffect : idle.busy = false ∧ idle.pend = none ∧ (pending .nop).busy = true := by decide +kernel

/-- An ABSORB that stays short of a block, and one that reaches it. -/
theorem witness_AbsorbExecutes : (64 : BitVec 7).toNat ≤ 64 ∧ (63 : BitVec 7).toNat ≤ 64 ∧
    (pending (.absorb 64 (as 64))).pend = some (.absorb 64 (as 64)) ∧ (as 64).length = (64 : BitVec 7).toNat ∧
    (pending (.absorb 63 (as 63))).pend = some (.absorb 63 (as 63)) ∧ (as 63).length = (63 : BitVec 7).toNat ∧
    idle.pos.toNat + 63 < 64 ∧ ¬ idle.pos.toNat + 64 < 64 := by decide +kernel

theorem witness_EmptyAbsorbChangesNothing : (pending (.absorb 0 [])).pend = some (.absorb 0 []) := by decide +kernel

theorem witness_FinalIsAcceptedAndAlwaysExecutes : (pending .nop).busy = true ∧ idle.busy = false ∧ poisoned.err = true ∧
    poisoned.busy = false ∧ finished.done = true ∧ finished.err = false ∧ idle.done = false := by decide +kernel

theorem witness_PaddingIsAsTheRuleSays : 1 ≤ 1 ∧ 1 < padLen 0 - 8 ∧ 55 < padLen 0 - 8 ∧ ¬ 1 < padLen 55 - 8 ∧ 7 < 8 ∧
    (0x1FFFFFFFFFFFFFFF : BitVec 64).toNat < 2 ^ 61 := by decide

theorem witness_FinalCompressesThePadding : (120 : BitVec 64).toNat % 64 = (56 : BitVec 6).toNat := by decide

theorem witness_AbsorbAndFinalLeaveTheRest :
    goesOn (exec (.absorb 63) (pending (.absorb 63 (as 63)))) = true ∧ (pending (.absorb 63 (as 63))).pos.toNat + 63 < 64 ∧
    goesOn (exec .final (pending .final)) = true ∧ (pending .final).written[15] = true :=
  ⟨by decide +kernel, by decide +kernel, by decide +kernel, by decide +kernel⟩

theorem witness_AbsorbedMessageIsHashed : (∀ chunk ∈ [as 64, [], as 2], chunk.length ≤ 64) ∧
    [as 64, [], as 2].flatten.length < 2 ^ 61 := by decide +kernel

theorem witness_HashSequenceReadsTheDigest :
    let s : State := { finished with host := pseudoHash (as 66), sched := [.engine, .host, .host, .host] }
    s.Inv ∧ s.busy = false ∧ .reset ∉ s.sched ∧ s.host = pseudoHash (as 66) ∧ (as 66).length ≤ s.params.maxBytes := by
  obtain ⟨h₁, h₂, h₃, h₄, h₅, h₆, h₇, h₈, h₉, h₁₀, h₁₁⟩ := witness_inv_finished (pseudoHash (as 66))
  exact ⟨⟨h₁, h₂, h₃, h₄, h₅, h₆, h₇, h₈, h₉, h₁₀, h₁₁⟩, rfl, by decide +kernel, rfl, by decide +kernel⟩

/-- A legal step, and a host access that gets a bus error. -/
theorem witness_ExecutionNeverFails : (pending (.absorb 64 (as 64))).Inv ∧
    ({ finished with host := [.write 0x00 1 0] } : State).Inv ∧
    ({ finished with host := [.write 0x00 1 0] } : State).event = .host (.write 0x00 1 0) ∧
    HostOp.legal (.write 0x00 1 0) = false ∧
    see (fun t => t.err) (step (hosted [.write 0x00 4 0x00000004])) = some true ∧ (hosted []).err = false :=
  ⟨witness_inv_absorb, witness_inv_finished _, rfl, rfl, by decide +kernel, rfl⟩

theorem witness_RaisingRecordsTheFirstErrorOnly : idle.err = false ∧ poisoned.err = true ∧
    (poisoned.setPending .init).err = true ∧ see (fun t => t.err) (step (poisoned.setPending .init)) = some false := by
  decide +kernel

theorem witness_PoisonedContextNeverFinishes : poisoned.err = true ∧ poisoned.busy = false ∧ poisoned.done = false ∧
    poisoned.pend ≠ some .final ∧ decodeCommand 0x00004002 = .absorb 64 ∧ decodeCommand 0x00004102 = .badLen ∧
    decodeCommand 0x00000003 = .final ∧ decodeCommand 0x00000000 = .nop ∧ decodeCommand 0x00000001 = .init ∧
    see (fun t => t.err) (step { poisoned with host := [.write 0x00 4 0x00000003] }) = some true := by decide +kernel

theorem witness_ReuseAfterFinal_digestStays : ({ finished with host := [.poll] } : State).Inv ∧
    ({ finished with host := [.poll] } : State).done = true ∧ goesOn (step { finished with host := [.poll] }) = true ∧
    ({ finished with host := [.poll] } : State).event = .host .poll :=
  ⟨witness_inv_finished _, rfl, by decide +kernel, rfl⟩

theorem witness_ReuseAfterFinalRaisesSeq : finished.busy = false ∧ finished.done = true ∧ finished.err = false ∧
    decodeCommand 0x00000002 = .absorb 0 ∧ decodeCommand 0x00007F02 = .badLen ∧ decodeCommand 0x00000003 = .final ∧
    decodeCommand 0x00000001 = .init := by decide +kernel

theorem witness_LimitRefusesAnOverlongMessage :
    let at64 : State := { idle with count := 64, params := { maxBytes := 100 } }
    at64.busy = false ∧ at64.err = false ∧ at64.done = false ∧ decodeCommand 0x00002502 = .absorb 37 ∧
    at64.params.maxBytes < at64.count.toNat + (37 : BitVec 7).toNat ∧ decodeCommand 0x00002402 = .absorb 36 ∧
    at64.count.toNat + (36 : BitVec 7).toNat ≤ at64.params.maxBytes := by decide +kernel

theorem witness_IdleEngineKeepsItsState : (hosted [.write 0x40 4 7]).compressing = false ∧
    (hosted [.write 0x40 4 7]).busy = false ∧ goesOn (step (hosted [.write 0x40 4 7])) = true ∧
    (hosted [.write 0x40 4 7]).event = .host (.write 0x40 4 7) := ⟨rfl, rfl, by decide +kernel, rfl⟩

theorem witness_ResetLeavesTheValuesOfTheTable :
    ({ pending .final with sched := [.reset] } : State).compressing = false ∧
    ({ pending .final with sched := [.reset] } : State).sched = .reset :: [] := by decide +kernel

theorem witness_ResetIsInitOnAnIdleEngine : finished.busy = false ∧ finished.compressing = false := by decide +kernel

theorem witness_WriteWhileBusyIsRefused : (pending .init).busy = true ∧ (pending .init).err = false ∧
    (poisoned.setPending .init).busy = true ∧ (poisoned.setPending .init).err = true := by decide +kernel

theorem witness_PollWaitsWhileBusy : ({ pending .nop with host := [.poll] } : State).host = .poll :: [] ∧
    ({ pending .nop with host := [.poll] } : State).busy = true ∧ (hosted [.poll]).host = .poll :: [] ∧
    (hosted [.poll]).busy = false := by decide +kernel

theorem witness_LoadPutsTheBytesInTheWindow :
    let s : State := { hosted (pseudoLoad (as 64)) with sched := [.engine, .host] }
    (as 64).length ≤ 64 ∧ s.compressing = false ∧ s.busy = false ∧ .reset ∉ s.sched ∧ s.host = pseudoLoad (as 64) ∧
    (as 5).length ≤ 64 ∧ ((as 5).length + 3) / 4 ≤ (2 : Fin 16).val := by decide +kernel

end Sys2Proof.Tests
end

section
/-! PROOFS. No step reads a stale byte of BUF (R24): every turn on a state with other stale bytes is the turn on the
state, with BUF changed, or gives the same state. -/

namespace Sys2Proof.Machine

/-! ## States that differ in BUF -/

/-- The state with other bytes in BUF. -/
def State.withBuf (b : Vector Byte 64) (s : State) : State := { s with buf := b }

/-- An outcome with its next state changed by `f`; a fault or a refusal stays. -/
def Outcome.mapNext (f : State → State) : Host.Outcome State Fault Refusal → Host.Outcome State Fault Refusal
  | .next s => .next (f s)
  | .fault r => .fault r
  | .refused r => .refused r

/-- The two states agree on the occupied bytes BUF[0 .. POS). -/
def AgreeBelowPos (s : State) (b : Vector Byte 64) : Prop := ∀ i : Fin 64, i.val < s.pos.toNat → b[i] = s.buf[i]

theorem sameButStale_iff {s t : State} : SameButStale s t ↔ ∃ b, t = s.withBuf b ∧ AgreeBelowPos s b :=
  ⟨fun ⟨ht, hb⟩ => ⟨t.buf, ht, hb⟩, by rintro ⟨b, rfl, hb⟩; exact ⟨rfl, hb⟩⟩

theorem SameButStale.refl (s : State) : SameButStale s s := ⟨rfl, fun _ _ => rfl⟩

/-! The operations of the bus and the host commute with a change of BUF. -/

theorem State.raiseError_withBuf (b : Vector Byte 64) (c : ErrorCode) (s : State) :
    (s.withBuf b).raiseError c = (s.raiseError c).withBuf b := by
  rw [State.raiseError, State.raiseError, apply_ite (State.withBuf b)]
  rfl

theorem State.ifFresh_withBuf (b : Vector Byte 64) (s t : State) :
    (s.withBuf b).ifFresh (t.withBuf b) = (s.ifFresh t).withBuf b := by
  rw [State.ifFresh, State.raiseError_withBuf, State.ifFresh, apply_ite (State.withBuf b), apply_ite (State.withBuf b)]
  rfl

theorem State.acceptAbsorb_withBuf (b : Vector Byte 64) (len : BitVec 7) (s : State) :
    (s.withBuf b).acceptAbsorb len = (s.acceptAbsorb len).withBuf b := by
  rw [State.acceptAbsorb, State.raiseError_withBuf, State.acceptAbsorb, apply_ite (State.withBuf b)]
  rfl

theorem State.accept_withBuf (b : Vector Byte 64) (v : Word) (s : State) :
    (s.withBuf b).accept v = (s.accept v).withBuf b := by
  unfold State.accept
  cases hb : s.busy with
  | true => simpa [State.withBuf, hb] using s.raiseError_withBuf b .busyWrite
  | false =>
    rw [if_neg (by simp [State.withBuf, hb]), if_neg (by simp)]
    cases decodeCommand v with
    | nop => rfl
    | init => rfl
    | absorb len => exact (congrArg _ (s.acceptAbsorb_withBuf b len)).trans (s.ifFresh_withBuf b _)
    | final => exact s.ifFresh_withBuf b (s.setPending .final)
    | illegal => exact s.raiseError_withBuf b _
    | badLen => exact (congrArg _ (s.raiseError_withBuf b _)).trans (s.ifFresh_withBuf b _)

theorem State.writeReg_withBuf (b : Vector Byte 64) (r : Reg) (v : Word) (s : State) :
    (s.withBuf b).writeReg r v = (s.writeReg r v).withBuf b := by
  cases r with
  | ctrl => exact s.accept_withBuf b v
  | _ => rfl

theorem State.anyWhileBusy_withBuf (b : Vector Byte 64) (v : Word) (s : State) :
    (s.withBuf b).anyWhileBusy v = (s.anyWhileBusy v).map id (State.withBuf b) := by
  rw [State.anyWhileBusy, State.anyWhileBusy, apply_ite (Prod.map id (State.withBuf b))]
  rfl

theorem State.readReg_withBuf (b : Vector Byte 64) (r : Reg) (s : State) :
    (s.withBuf b).readReg r = (s.readReg r).map id (State.withBuf b) := by
  cases r with
  | ctrl => rfl
  | reserved => rfl
  | status =>
    simp only [State.readReg, apply_ite (Prod.map id (State.withBuf b))]
    rfl
  | data k =>
    simp only [State.readReg, apply_ite (Prod.map id (State.withBuf b))]
    rfl
  | _ => exact s.anyWhileBusy_withBuf b _

theorem HostOp.run_poll_busy {s : State} (rest : List HostOp) (h : s.busy = true) :
    HostOp.poll.run rest s = .next (s.drew 1) := by
  simp only [HostOp.run, readReg_status_busy h, if_pos h]

theorem HostOp.run_poll_idle {s : State} (rest : List HostOp) (h : s.busy = false) :
    HostOp.poll.run rest s = .next { s with host := rest } := by
  simp only [HostOp.run, readReg_status_idle h]
  rw [if_neg (by simp [h])]

theorem HostOp.run_withBuf (b : Vector Byte 64) (op : HostOp) (rest : List HostOp) (s : State) :
    op.run rest (s.withBuf b) = Outcome.mapNext (State.withBuf b) (op.run rest s) := by
  cases op with
  | read off width t =>
    simp only [HostOp.run, State.busRead, State.readReg_withBuf]
    cases accessFault off width <;> rfl
  | write off width v =>
    simp only [HostOp.run, State.busWrite, State.writeReg_withBuf]
    cases accessFault off width <;> rfl
  | poll =>
    cases h : s.busy with
    | true =>
      rw [HostOp.run_poll_busy rest h, HostOp.run_poll_busy (s := s.withBuf b) rest h]
      rfl
    | false =>
      rw [HostOp.run_poll_idle rest h, HostOp.run_poll_idle (s := s.withBuf b) rest h]
      rfl
  | expect t imm => rfl

theorem hostTurn_withBuf (b : Vector Byte 64) (s : State) :
    hostTurn (s.withBuf b) = Outcome.mapNext (State.withBuf b) (hostTurn s) := by
  unfold hostTurn
  rw [show (s.withBuf b).host = s.host from rfl]
  cases s.host with
  | nil => rfl
  | cons op rest => exact op.run_withBuf b rest s

/-- A turn of the host keeps BUF and POS. -/
theorem hostTurn_buf_pos {s t : State} (h : hostTurn s = .next t) : t.buf = s.buf ∧ t.pos = s.pos := by
  rcases hostTurn_cases h with ⟨-, rfl⟩ | ⟨off, width, k, rest, v, u, -, hr, rfl⟩ | ⟨off, width, v, rest, u, -, hw, rfl⟩ |
    ⟨rest, v, u, -, hr, rfl⟩ | ⟨k, imm, rest, -, rfl⟩
  · exact ⟨rfl, rfl⟩
  · obtain ⟨-, rfl | rfl, -⟩ := State.busRead_ok hr <;> exact ⟨rfl, rfl⟩
  · obtain ⟨-, rfl⟩ := State.busWrite_ok hw
    exact ⟨State.writeReg_buf _ _ _, State.writeReg_pos _ _ _⟩
  · obtain ⟨-, rfl | rfl, -⟩ := State.busRead_ok hr <;> split <;> exact ⟨rfl, rfl⟩
  · exact ⟨rfl, rfl⟩

theorem hostTurn_sameButStale {s : State} {b : Vector Byte 64} (hb : AgreeBelowPos s b) :
    SameOutcome SameButStale (hostTurn s) (hostTurn (s.withBuf b)) := by
  rw [hostTurn_withBuf]
  cases h : hostTurn s with
  | next u =>
    obtain ⟨hbuf, hpos⟩ := hostTurn_buf_pos h
    exact ⟨rfl, fun i hi => by rw [hbuf]; exact hb i (by rwa [hpos] at hi)⟩
  | fault r => rfl
  | refused r => rfl

/-! UPDATE reads the occupied bytes only, and leaves its chunk's bytes occupied. -/

theorem fillBuf_eq_of_agree {s : State} {b : Vector Byte 64} (hb : AgreeBelowPos s b) (chunk : List Byte) (i : Nat)
    (hi : i < 64) (hlt : i < s.pos.toNat + chunk.length) :
    (fillBuf b s.pos.toNat chunk)[i] = (fillBuf s.buf s.pos.toNat chunk)[i] := by
  rw [fillBuf_getElem, fillBuf_getElem]
  by_cases hp : i < s.pos.toNat
  · rw [if_pos hp, if_pos hp]
    exact hb ⟨i, hi⟩ hp
  · rw [if_neg hp, if_neg hp, List.getElem?_eq_getElem (by omega), Option.getD_some, Option.getD_some]

theorem State.updateShort_sameButStale {s : State} {b : Vector Byte 64} (hb : AgreeBelowPos s b) (chunk : List Byte) :
    SameButStale (s.updateShort chunk) ((s.withBuf b).updateShort chunk) := by
  refine ⟨rfl, fun i hi => fillBuf_eq_of_agree hb chunk i i.isLt ?_⟩
  have hpos : (s.updateShort chunk).pos.toNat = (s.pos.toNat + chunk.length) % 64 := by simp [State.updateShort]
  omega

/-- A block completed from BUF and the chunk holds no stale byte, and BUF is overwritten after it. -/
theorem State.updateFull_withBuf {s : State} {b : Vector Byte 64} (hb : AgreeBelowPos s b) {chunk : List Byte}
    (hlen : ¬chunk.length < 64 - s.pos.toNat) : (s.withBuf b).updateFull chunk = s.updateFull chunk := by
  have hfull : fillBuf b s.pos.toNat (chunk.take (64 - s.pos.toNat)) =
      fillBuf s.buf s.pos.toNat (chunk.take (64 - s.pos.toNat)) := by
    ext i hi : 1
    exact fillBuf_eq_of_agree hb _ i hi (by rw [List.length_take]; omega)
  simp only [State.updateFull, State.withBuf, hfull]

theorem State.update_sameButStale {s : State} {b : Vector Byte 64} (hb : AgreeBelowPos s b) (chunk : List Byte) :
    SameButStale (s.update chunk) ((s.withBuf b).update chunk) := by
  by_cases hlen : chunk.length < 64 - s.pos.toNat
  · rw [State.update_short hlen, State.update_short (s := s.withBuf b) hlen]
    exact State.updateShort_sameButStale hb chunk
  · rw [State.update_full hlen, State.update_full (s := s.withBuf b) hlen, State.updateFull_withBuf hb hlen]
    exact .refl _

/-! The turns of the agents and the step. -/

theorem SameButStale.retire {s t : State} (h : SameButStale s t) : SameButStale s.retire t.retire := by
  obtain ⟨b, rfl, hb⟩ := sameButStale_iff.mp h
  exact ⟨rfl, hb⟩

theorem SameButStale.setDone {s t : State} (h : SameButStale s t) : SameButStale s.setDone t.setDone := by
  obtain ⟨b, rfl, hb⟩ := sameButStale_iff.mp h
  exact ⟨rfl, hb⟩

theorem exec_pending_sameButStale {s : State} {b : Vector Byte 64} (hb : AgreeBelowPos s b) (p : Pending) :
    SameOutcome SameButStale (exec p.instr s) (exec p.instr (s.withBuf b)) := by
  have hs : SameButStale s (s.withBuf b) := ⟨rfl, hb⟩
  cases p with
  | nop => exact hs.retire
  | init => exact ⟨rfl, fun i hi => absurd hi (Nat.not_lt_zero _)⟩
  | absorb len _ =>
    change SameOutcome _ (execAbsorb len s) (execAbsorb len (s.withBuf b))
    unfold execAbsorb
    rw [show (s.withBuf b).operand len.toNat = s.operand len.toNat from rfl]
    cases s.operand len.toNat with
    | none => rfl
    | some bytes => exact (State.update_sameButStale hb bytes).retire
  | final => exact (State.update_sameButStale hb _).setDone.retire

theorem engineTurn_sameButStale {s : State} {b : Vector Byte 64} (hb : AgreeBelowPos s b) :
    SameOutcome SameButStale (engineTurn s) (engineTurn (s.withBuf b)) := by
  unfold engineTurn
  rw [show (s.withBuf b).busy = s.busy from rfl, show (s.withBuf b).pend = s.pend from rfl]
  cases s.busy with
  | false => exact ⟨rfl, hb⟩
  | true =>
    cases s.pend with
    | none => rfl
    | some p => exact exec_pending_sameButStale hb p

theorem compressorTurn_sameButStale {s : State} {b : Vector Byte 64} (hb : AgreeBelowPos s b) :
    SameOutcome SameButStale (compressorTurn s) (compressorTurn (s.withBuf b)) := by
  rw [compressorTurn, compressorTurn, exec_decodeStep, exec_decodeStep]
  change SameButStale (State.afterStep s.work.step _) (State.afterStep s.work.step _)
  unfold State.afterStep
  split <;> exact ⟨rfl, hb⟩

/-- Settles O10: the two states differ in BUF only; the host and the compressor do not look at it, INIT empties it, and
UPDATE and FINAL overwrite every stale byte before they read it. -/
theorem staleBytesAreNeverRead : Obligations.StaleBytesAreNeverRead := by
  unfold Obligations.StaleBytesAreNeverRead
  intro s t h
  obtain ⟨b, rfl, hb⟩ := sameButStale_iff.mp h
  unfold step
  rw [show (s.withBuf b).compressing = s.compressing from rfl, show (s.withBuf b).sched = s.sched from rfl,
    show (s.withBuf b).busy = s.busy from rfl]
  cases s.compressing with
  | true => exact compressorTurn_sameButStale hb
  | false =>
    match s.sched with
    | [] =>
      cases s.busy with
      | true => exact engineTurn_sameButStale hb
      | false => exact hostTurn_sameButStale hb
    | .host :: rest => exact hostTurn_sameButStale (s := s.took rest) hb
    | .engine :: rest => exact engineTurn_sameButStale (s := s.took rest) hb
    | .reset :: rest => exact .refl _

end Sys2Proof.Machine
end

section
/-! PROOFS. The context invariant `State.Inv` (R43, R44, R30): it holds after reset, and every event keeps it. -/

namespace Sys2Proof.Machine

/-! ## What leaves the invariant alone -/

/-- The two states agree in every field that `State.Inv` speaks of. -/
structure SameControl (s t : State) : Prop where
  compressing : t.compressing = s.compressing
  busy : t.busy = s.busy
  pend : t.pend = s.pend
  count : t.count = s.count
  pos : t.pos = s.pos
  done : t.done = s.done
  err : t.err = s.err
  errcode : t.errcode = s.errcode
  params : t.params = s.params

theorem State.Inv.of_sameControl {s t : State} (hs : s.Inv) (h : SameControl s t) : t.Inv := by
  obtain ⟨h₁, h₂, h₃, h₄, h₅, h₆, h₇, h₈, h₉⟩ := h
  obtain ⟨i₁, i₂, i₃, i₄, i₅, i₆, i₇, i₈, i₉, i₁₀, i₁₁⟩ := hs
  constructor <;> simpa only [h₁, h₂, h₃, h₄, h₅, h₆, h₇, h₈, h₉]

theorem State.Inv.took {s : State} (hs : s.Inv) (rest : List Turn) : (s.took rest).Inv :=
  hs.of_sameControl ⟨rfl, rfl, rfl, rfl, rfl, rfl, rfl, rfl, rfl⟩

theorem State.Inv.drew {s : State} (hs : s.Inv) (n : Nat) : (s.drew n).Inv :=
  hs.of_sameControl ⟨rfl, rfl, rfl, rfl, rfl, rfl, rfl, rfl, rfl⟩

theorem State.Inv.storeData {s : State} (hs : s.Inv) (k : Fin 16) (v : Word) : (s.storeData k v).Inv :=
  hs.of_sameControl ⟨rfl, rfl, rfl, rfl, rfl, rfl, rfl, rfl, rfl⟩

/-- The host's own fields are not the invariant's. -/
theorem State.Inv.withHost {s : State} (hs : s.Inv) (host : List HostOp) (reads : List (Nat × Word))
    (checks : List Bool) : ({ s with host := host, reads := reads, checks := checks } : State).Inv :=
  hs.of_sameControl ⟨rfl, rfl, rfl, rfl, rfl, rfl, rfl, rfl, rfl⟩

/-! ## Acceptance -/

theorem ErrorCode.code_le (c : ErrorCode) : c.code.toNat ≤ 5 := by cases c <;> decide

theorem ErrorCode.code_ne_zero (c : ErrorCode) : c.code ≠ 0 := by cases c <;> decide

theorem State.Inv.raiseError {s : State} (hs : s.Inv) (c : ErrorCode) : (s.raiseError c).Inv := by
  cases he : s.err with
  | true => rwa [s.raiseError_poisoned c he]
  | false =>
    have hr : s.raiseError c = { s with err := true, errcode := c.code } := by simp [State.raiseError, he]
    rw [hr]
    exact { hs with
      errcodeKnown := c.code_le
      errcodeOfErr := iff_of_true rfl c.code_ne_zero }

/-- A command that the context may hold in PEND: an ABSORB or a FINAL only before DONE, and an ABSORB with exactly its
LEN bytes, within MAX_BYTES (R30, R120). -/
def State.Admits (s : State) : Pending → Prop
  | .nop => True
  | .init => True
  | .absorb len bytes =>
    len.toNat ≤ 64 ∧ bytes.length = len.toNat ∧ s.done = false ∧ s.count.toNat + len.toNat ≤ s.params.maxBytes
  | .final => s.done = false

theorem State.Inv.setPending {s : State} (hs : s.Inv) {p : Pending} (hp : s.Admits p) : (s.setPending p).Inv :=
  { hs with
    busyIffPending := rfl
    pendingLength := by
      rintro len bytes ⟨⟩
      exact ⟨hp.1, hp.2.1⟩
    pendingFresh := by
      rintro (⟨⟨⟩⟩ | ⟨len, bytes, ⟨⟩⟩)
      · exact hp
      · exact hp.2.2.1
    pendingFits := by
      rintro len bytes ⟨⟩
      exact hp.2.2.2 }

theorem State.Inv.accept {s : State} (hs : s.Inv) (v : Word) : (s.accept v).Inv := by
  rcases s.accept_cases v with ⟨h, -⟩ | ⟨c, h⟩ | ⟨h, -⟩ | ⟨h, -⟩ | ⟨h, -, -, -, hd⟩ | ⟨len, h, -, hv, -, hd, hfit⟩ <;> rw [h]
  · exact hs
  · exact hs.raiseError c
  · exact hs.setPending (p := .nop) trivial
  · exact hs.setPending (p := .init) trivial
  · exact hs.setPending (p := .final) hd
  · have hle : len.toNat ≤ 64 := decodeCommand_absorb_le hv
    exact (hs.setPending (p := .absorb len (s.snapshot len.toNat)) ⟨hle, by simp [hle], hd, hfit⟩).drew 16

theorem State.Inv.writeReg {s : State} (hs : s.Inv) (r : Reg) (v : Word) : (s.writeReg r v).Inv := by
  rcases s.writeReg_cases r v with ⟨-, h⟩ | ⟨k, -, h⟩ | h <;> rw [h]
  · exact hs.accept v
  · exact hs.storeData k v
  · exact hs

/-! ## Execution -/

theorem State.Inv.retire {s : State} (hs : s.Inv) : s.retire.Inv :=
  { hs with
    busyIffPending := rfl
    pendingLength := by rintro len bytes ⟨⟩
    pendingFresh := by rintro (⟨⟨⟩⟩ | ⟨len, bytes, ⟨⟩⟩)
    pendingFits := by rintro len bytes ⟨⟩ }

theorem State.Inv.init {s : State} (hs : s.Inv) : s.freshContext.clearError.retire.Inv where
  notCompressing := hs.notCompressing
  busyIffPending := rfl
  pendingLength := by rintro len bytes ⟨⟩
  pendingFresh := fun _ => rfl
  pendingFits := by rintro len bytes ⟨⟩
  posOfCount := rfl
  posOfDone := fun _ => rfl
  errcodeKnown := Nat.zero_le 5
  errcodeOfErr := by simp
  maxBytesLegal := hs.maxBytesLegal
  countBound := Nat.zero_le _

/-- COUNT after an UPDATE, when it does not wrap. -/
theorem State.update_count_toNat {s : State} {chunk : List Byte} (h : s.count.toNat + chunk.length < 2 ^ 64) :
    (s.update chunk).count.toNat = s.count.toNat + chunk.length := by
  rw [State.update_count, BitVec.toNat_add, BitVec.toNat_ofNat]
  omega

/-- COUNT and POS stay in step through an UPDATE. -/
theorem State.Inv.update_posOfCount {s : State} (hs : s.Inv) {chunk : List Byte}
    (h : s.count.toNat + chunk.length < 2 ^ 64) :
    (s.update chunk).count.toNat % 64 = (s.update chunk).pos.toNat := by
  have hpos := hs.posOfCount
  rw [State.update_count_toNat h, State.update_pos]
  omega

/-- Before DONE, COUNT is at most MAX_BYTES. -/
theorem State.Inv.count_le {s : State} (hs : s.Inv) (hd : s.done = false) : s.count.toNat ≤ s.params.maxBytes := by
  simpa [hd] using hs.countBound

theorem State.Inv.absorb {s : State} (hs : s.Inv) (hd : s.done = false) {bytes : List Byte}
    (hfit : s.count.toNat + bytes.length ≤ s.params.maxBytes) : (s.update bytes).retire.Inv := by
  have hmax := hs.maxBytesLegal
  have hlt : s.count.toNat + bytes.length < 2 ^ 64 := by omega
  exact {
    notCompressing := State.update_compressing bytes s hs.notCompressing
    busyIffPending := rfl
    pendingLength := by rintro len bytes ⟨⟩
    pendingFresh := by rintro (⟨⟨⟩⟩ | ⟨len, bytes, ⟨⟩⟩)
    pendingFits := by rintro len bytes ⟨⟩
    posOfCount := hs.update_posOfCount hlt
    posOfDone := by simp [hd]
    errcodeKnown := by simpa using hs.errcodeKnown
    errcodeOfErr := by simpa using hs.errcodeOfErr
    maxBytesLegal := by simpa using hmax
    countBound := by
      rw [State.retire_count, State.update_count_toNat hlt]
      simpa [hd] using hfit }

theorem padLen_le (pos : BitVec 6) : padLen pos.toNat ≤ 72 := by
  rw [padLen_eq]
  split <;> omega

/-- The padding ends a block (R141). -/
theorem add_padLen_mod (pos : BitVec 6) : (pos.toNat + padLen pos.toNat) % 64 = 0 := by
  have := pos.isLt
  rw [padLen_eq]
  split <;> omega

theorem State.finalize_pos (s : State) : s.finalize.pos = 0 :=
  BitVec.eq_of_toNat_eq (by
    rw [State.finalize, State.setDone_pos, State.update_pos, padding_length, add_padLen_mod]
    rfl)

theorem State.finalize_compressing {s : State} (h : s.compressing = false) : s.finalize.compressing = false :=
  State.update_compressing _ s h

/-- FINAL does not wrap COUNT, under the invariant. -/
theorem State.Inv.padding_fits {s : State} (hs : s.Inv) (hd : s.done = false) :
    s.count.toNat + (padding s.pos.toNat s.count).length < 2 ^ 64 := by
  have hmax := hs.maxBytesLegal
  have hcount := hs.count_le hd
  have hpad := padLen_le s.pos
  rw [padding_length]
  omega

theorem State.Inv.finalize_count {s : State} (hs : s.Inv) (hd : s.done = false) :
    s.finalize.count.toNat = s.count.toNat + padLen s.pos.toNat := by
  rw [State.finalize, State.setDone_count, State.update_count_toNat (hs.padding_fits hd), padding_length]

theorem State.Inv.final {s : State} (hs : s.Inv) (hd : s.done = false) : s.finalize.retire.Inv where
  notCompressing := State.finalize_compressing hs.notCompressing
  busyIffPending := rfl
  pendingLength := by rintro len bytes ⟨⟩
  pendingFresh := by rintro (⟨⟨⟩⟩ | ⟨len, bytes, ⟨⟩⟩)
  pendingFits := by rintro len bytes ⟨⟩
  posOfCount := hs.update_posOfCount (hs.padding_fits hd)
  posOfDone := fun _ => s.finalize_pos
  errcodeKnown := by simpa using hs.errcodeKnown
  errcodeOfErr := by simpa using hs.errcodeOfErr
  maxBytesLegal := by simpa using hs.maxBytesLegal
  countBound := by
    have hcount := hs.count_le hd
    have hpad := padLen_le s.pos
    simp only [State.retire_count, State.retire_done, State.retire_params, State.finalize_done, State.finalize_params,
      hs.finalize_count hd, if_true]
    omega

/-! ## Reset -/

theorem State.Inv.afterReset {params : Params} (h : params.maxBytes ≤ 2 ^ 61 - 1) (host : List HostOp)
    (sched : List Turn) (reads : List (Nat × Word)) (checks : List Bool) (draws : Nat) :
    (State.afterReset params host sched reads checks draws).Inv where
  notCompressing := rfl
  busyIffPending := rfl
  pendingLength := by rintro len bytes ⟨⟩
  pendingFresh := fun _ => rfl
  pendingFits := by rintro len bytes ⟨⟩
  posOfCount := rfl
  posOfDone := fun _ => rfl
  errcodeKnown := Nat.zero_le 5
  errcodeOfErr := by simp [State.afterReset]
  maxBytesLegal := h
  countBound := Nat.zero_le _

/-- Settles O18: the state after reset with the default MAX_BYTES. -/
theorem contextInvariantHoldsAtReset : Obligations.ContextInvariantHoldsAtReset :=
  State.Inv.afterReset (params := Params.default) le_rfl [] [] [] [] 0

/-! ## Every event -/

theorem State.Inv.absorb_pending {s : State} (hs : s.Inv) {len : BitVec 7} {bytes : List Byte}
    (hp : s.pend = some (.absorb len bytes)) :
    s.done = false ∧ s.count.toNat + bytes.length ≤ s.params.maxBytes := by
  refine ⟨hs.pendingFresh (.inr ⟨len, bytes, hp⟩), ?_⟩
  rw [(hs.pendingLength len bytes hp).2]
  exact hs.pendingFits len bytes hp

theorem Stepped.inv {s t : State} {e : Event} (h : Stepped s e t) (hs : s.Inv) : t.Inv := by
  cases h with
  | compressor hc => exact absurd hc (by simp [hs.notCompressing])
  | nop rest => exact (hs.took rest).retire
  | init rest => exact (hs.took rest).init
  | absorb rest len bytes _ _ hp =>
    obtain ⟨hd, hfit⟩ := hs.absorb_pending hp
    exact (hs.took rest).absorb hd hfit
  | final rest _ _ hp => exact (hs.took rest).final (hs.pendingFresh (.inl hp))
  | engineIdle rest => exact hs.took rest
  | hostIdle rest => exact hs.took rest
  | read rest _ _ k ops v u _ _ _ hu =>
    rcases hu with rfl | rfl
    · exact (hs.took rest).withHost ops _ _
    · exact ((hs.took rest).drew 1).withHost ops _ _
  | write rest off _ v ops => exact ((hs.took rest).writeReg (regAt off) v).withHost ops _ _
  | pollBusy rest => exact (hs.took rest).drew 1
  | pollIdle rest ops => exact (hs.took rest).withHost ops _ _
  | expect rest k imm ops => exact (hs.took rest).withHost ops _ _
  | reset rest => exact .afterReset hs.maxBytesLegal _ _ _ _ _

/-- Settles O19: by the cases of a step. -/
theorem everyStepKeepsTheContextInvariant : Obligations.EveryStepKeepsTheContextInvariant :=
  fun _ _ hs h => (step_stepped h).inv hs

/-! ## COUNT between INITs -/

/-- Only INIT and reset lower COUNT, under the invariant. -/
theorem Stepped.count_le {s t : State} {e : Event} (h : Stepped s e t) (hs : s.Inv) (hr : e ≠ .reset)
    (hi : e ≠ .engine .init) : s.count.toNat ≤ t.count.toNat := by
  cases h with
  | compressor hc => exact absurd hc (by simp [hs.notCompressing])
  | init => exact absurd rfl hi
  | reset => exact absurd rfl hr
  | absorb rest len bytes _ _ hp =>
    obtain ⟨-, hfit⟩ := hs.absorb_pending hp
    have hmax := hs.maxBytesLegal
    rw [State.retire_count, State.update_count_toNat (by rw [State.took_count]; omega)]
    exact Nat.le_add_right _ _
  | final rest _ _ hp =>
    rw [State.retire_count, (hs.took rest).finalize_count (hs.pendingFresh (.inl hp))]
    exact Nat.le_add_right _ _
  | read rest _ _ k ops v u _ _ _ hu => rcases hu with rfl | rfl <;> exact le_rfl
  | write => simp
  | _ => exact le_rfl

theorem State.Inv.count_bound {s : State} (hs : s.Inv) : s.count.toNat ≤ 2 ^ 61 + 71 := by
  have hmax := hs.maxBytesLegal
  have hcount := hs.countBound
  split at hcount <;> omega

/-- Settles O11: ABSORB and FINAL add to COUNT without wrapping, and the bound is the invariant's of the next state. -/
theorem countNeverDecreasesBetweenInits : Obligations.CountNeverDecreasesBetweenInits :=
  fun _ _ hs h hr hi => ⟨(step_stepped h).count_le hs hr hi, ((step_stepped h).inv hs).count_bound⟩

end Sys2Proof.Machine
end

section
/-! PROOFS. Which events write the chaining state, DONE, the error record and the DATA registers (R21, R28, R29, R32),
and the frame of ABSORB and FINAL. -/

namespace Sys2Proof.Machine

/-! ## The chaining state, DONE, ERR and ERRCODE -/

/-- Of the compression steps, seen one by one, only the last writes the chaining state. -/
theorem State.afterStep_chain {i : BitVec 6} (h : i ≠ 63#6) (s : State) : (s.afterStep i).chain = s.chain := by
  rw [State.afterStep, if_neg h]

/-- A compression step writes no flag and no DATA register (R40). -/
theorem State.afterStep_flags (i : BitVec 6) (s : State) :
    (s.afterStep i).done = s.done ∧ (s.afterStep i).err = s.err ∧ (s.afterStep i).errcode = s.errcode ∧
    (s.afterStep i).data = s.data ∧ (s.afterStep i).written = s.written := by
  unfold State.afterStep
  split <;> exact ⟨rfl, rfl, rfl, rfl, rfl⟩

/-- Settles O9: every other event leaves the chaining state. -/
theorem chainingStateChangesOnlyAsTheRuleSays : Obligations.ChainingStateChangesOnlyAsTheRuleSays := by
  unfold Obligations.ChainingStateChangesOnlyAsTheRuleSays
  intro s t h hne
  have hst := step_stepped h
  generalize s.event = e at hst ⊢
  cases hst with
  | compressor hc =>
    have hlast : s.work.step = 63#6 := by
      by_contra hi
      exact hne (State.afterStep_chain hi _)
    simp [hlast]
  | init => simp
  | absorb => simp
  | final => simp
  | reset => simp
  | read rest _ _ k ops v u _ _ _ hu => rcases hu with rfl | rfl <;> exact absurd rfl hne
  | write => simp at hne
  | _ => exact absurd rfl hne

theorem Stepped.done {s t : State} {e : Event} (h : Stepped s e t) (hf : e ≠ .engine .final) (hi : e ≠ .engine .init)
    (hr : e ≠ .reset) : t.done = s.done := by
  cases h with
  | compressor hc => exact (State.afterStep_flags _ _).1
  | init => exact absurd rfl hi
  | final => exact absurd rfl hf
  | reset => exact absurd rfl hr
  | absorb => simp
  | read rest _ _ k ops v u _ _ _ hu => rcases hu with rfl | rfl <;> rfl
  | write => simp
  | _ => rfl

/-- Settles O12. -/
theorem doneIsSetByFinalAndClearedByInitAndReset : Obligations.DoneIsSetByFinalAndClearedByInitAndReset := by
  unfold Obligations.DoneIsSetByFinalAndClearedByInitAndReset
  intro s t h
  have hst := step_stepped h
  refine ⟨fun he => ?_, fun he => ?_, hst.done⟩
  · rw [he] at hst
    cases hst with
    | final rest => exact (s.took rest).finalize_done
  · rcases he with he | he <;> rw [he] at hst <;> cases hst <;> rfl

/-- What an event other than INIT and reset does to ERR and ERRCODE: nothing, or it is a write to CTRL that records an
error while ERR = 0. -/
theorem Stepped.err {s t : State} {e : Event} (h : Stepped s e t) (hi : e ≠ .engine .init) (hr : e ≠ .reset) :
    t.err = s.err ∧ t.errcode = s.errcode ∨
    s.err = false ∧ t.err = true ∧ ∃ width v, e = .host (.write 0x00 width v) := by
  cases h with
  | compressor hc =>
    obtain ⟨-, herr, hcode, -⟩ := State.afterStep_flags s.work.step { s with work := s.work.tick }
    exact .inl ⟨herr, hcode⟩
  | init => exact absurd rfl hi
  | reset => exact absurd rfl hr
  | absorb => exact .inl (by simp)
  | final => exact .inl (by simp)
  | read rest _ _ k ops v u _ _ _ hu => rcases hu with rfl | rfl <;> exact .inl ⟨rfl, rfl⟩
  | write rest off width v =>
    by_cases hsame : ((s.took rest).writeReg (regAt off) v).err = s.err ∧
        ((s.took rest).writeReg (regAt off) v).errcode = s.errcode
    · exact .inl hsame
    · obtain ⟨hs, ht, hreg⟩ := ((s.took rest).writeReg_err (regAt off) v).2 (not_and_or.mp hsame)
      obtain rfl := regAt_ctrl.mp hreg
      exact .inr ⟨hs, ht, width, v, rfl⟩
  | _ => exact .inl ⟨rfl, rfl⟩

/-- Settles O13. -/
theorem firstErrorStaysUntilInitOrReset : Obligations.FirstErrorStaysUntilInitOrReset := by
  unfold Obligations.FirstErrorStaysUntilInitOrReset
  intro s t h
  have hst := step_stepped h
  refine ⟨fun he => ?_, fun hi hr herr => ?_, fun hi hr hne => ?_⟩
  · rcases he with he | he <;> rw [he] at hst <;> cases hst <;> exact ⟨rfl, rfl⟩
  · rcases hst.err hi hr with ⟨h₁, h₂⟩ | ⟨hclear, -⟩
    · exact ⟨h₁.trans herr, h₂⟩
    · exact absurd (herr.symm.trans hclear) (by decide)
  · rcases hst.err hi hr with ⟨h₁, h₂⟩ | hrec
    · exact absurd hne (by simp [h₁, h₂])
    · exact hrec

/-! ## The DATA window -/

/-- R12, R32: byte r of word q stands at index 4q + r. -/
theorem getElem?_flatMap_le32bytes (l : List Word) (q r : Nat) (hr : r < 4) :
    (l.flatMap le32bytes)[4 * q + r]? = l[q]?.map (byteLane · r) := by
  induction l generalizing q with
  | nil => simp
  | cons w l ih =>
    rw [List.flatMap_cons]
    cases q with
    | zero =>
      rw [List.getElem?_append_left (by simpa using hr)]
      interval_cases r <;> rfl
    | succ q =>
      rw [List.getElem?_append_right (by simp; omega), le32bytes_length, show 4 * (q + 1) + r - 4 = 4 * q + r by omega,
        ih, List.getElem?_cons_succ]

theorem windowBytes_getElem? (words : Vector Word 16) {j : Nat} (hj : j < 64) :
    (windowBytes words)[j]? = some (byteLane words[j / 4] (j % 4)) := by
  have h := getElem?_flatMap_le32bytes words.toList (j / 4) (j % 4) (Nat.mod_lt _ (by decide))
  rw [Nat.div_add_mod] at h
  rw [windowBytes, h]
  simp [show j / 4 < 16 by omega]

/-- DATA stands at offset 0x40 and above (R31). -/
theorem le_of_regAt_data {off : Nat} {k : Fin 16} (h : regAt off = .data k) : 0x40 ≤ off := by
  unfold regAt at h
  repeat' split at h
  all_goals cases h
  omega

/-- Only a reset and a host's write at 0x40 or above write a DATA register. -/
theorem Stepped.data {s t : State} {e : Event} (h : Stepped s e t) (hr : e ≠ .reset)
    (hw : ∀ off width v, e = .host (.write off width v) → off < 0x40) : t.data = s.data ∧ t.written = s.written := by
  cases h with
  | compressor hc =>
    obtain ⟨-, -, -, hdata, hwritten⟩ := State.afterStep_flags s.work.step { s with work := s.work.tick }
    exact ⟨hdata, hwritten⟩
  | reset => exact absurd rfl hr
  | absorb => simp
  | final => simp
  | read rest _ _ k ops v u _ _ _ hu => rcases hu with rfl | rfl <;> exact ⟨rfl, rfl⟩
  | write rest off width v =>
    rcases (s.took rest).writeReg_cases (regAt off) v with ⟨-, hw'⟩ | ⟨k, hk, -⟩ | hw'
    · simp [hw']
    · exact absurd (hw off width v rfl) (Nat.not_lt.mpr (le_of_regAt_data hk))
    · simp [hw']
  | _ => exact ⟨rfl, rfl⟩

theorem State.busWrite_data (s : State) (k : Fin 16) (v : Word) :
    s.busWrite (0x40 + 4 * k.val) 4 v = .ok (s.storeData k v) := by
  simp only [State.busWrite, accessFault_data, regAt_data]
  rfl

theorem State.busRead_data {s : State} {k : Fin 16} (h : s.written[k] = true) :
    s.busRead (0x40 + 4 * k.val) 4 = .ok (s.data[k], s) := by
  simp only [State.busRead, accessFault_data, regAt_data, State.readReg, h, if_true]

theorem State.busRead_storeData (s : State) (k : Fin 16) (v : Word) :
    (s.storeData k v).busRead (0x40 + 4 * k.val) 4 = .ok (v, s.storeData k v) := by
  rw [State.busRead_data] <;> simp

/-- The snapshot takes the first n window bytes, of any words that agree with the DATA registers they lie in. -/
theorem State.snapshot_eq_take {s : State} {n : Nat} {words : Vector Word 16} (hn : n ≤ 64)
    (hw : ∀ k : Fin 16, 4 * k.val < n → words[k] = s.dataWord k) : s.snapshot n = (windowBytes words).take n := by
  apply List.ext_getElem?
  intro j
  by_cases hj : j < n
  · have hword := hw ⟨j / 4, by omega⟩ (by simp; omega)
    rw [State.snapshot, List.getElem?_take_of_lt hj, List.getElem?_take_of_lt hj, windowBytes_getElem? _ (by omega),
      windowBytes_getElem? _ (by omega)]
    simp only [Fin.getElem_fin] at hword
    simp [State.windowWords, hword]
  · rw [List.getElem?_eq_none (by simp; omega), List.getElem?_eq_none (by simp; omega)]

/-- Settles O14, clause by clause. -/
theorem dataWindowIsLittleEndianAndOnlyTheHostsToWrite :
    Obligations.DataWindowIsLittleEndianAndOnlyTheHostsToWrite := by
  unfold Obligations.DataWindowIsLittleEndianAndOnlyTheHostsToWrite
  refine ⟨fun words j => windowBytes_getElem? words j.isLt, fun s t h hne => ?_, fun s k v => ?_,
    fun s n words hn hwr hw => ?_⟩
  · by_contra hno
    obtain ⟨hr, hwrite⟩ := not_or.mp hno
    have hsame := (step_stepped h).data hr fun off width v he => by
      by_contra hoff
      exact hwrite ⟨off, width, v, Nat.not_lt.mp hoff, he⟩
    simp [hsame] at hne
  · exact ⟨s.storeData k v, s.busWrite_data k v, s.busRead_storeData k v⟩
  · refine State.snapshot_eq_take hn fun k hk => ?_
    rw [hw k hk, State.dataWord, hwr k hk, if_pos rfl]

/-! ## The frame of ABSORB and FINAL -/

/-- An ABSORB that answers a next state is UPDATE of its LEN bytes. -/
theorem execAbsorb_next {len : BitVec 7} {s t : State} (h : execAbsorb len s = .next t) :
    ∃ bytes, bytes.length = len.toNat ∧ t = (s.update bytes).retire := by
  unfold execAbsorb State.operand at h
  split at h
  case h_1 bytes hop =>
    split at hop
    · split at hop
      · rename_i hl
        cases hop
        cases h
        exact ⟨_, hl, rfl⟩
      · cases hop
    · cases hop
  case h_2 => cases h

/-- An UPDATE that completes no block compresses nothing. -/
theorem State.update_chain_work_of_short (s : State) (chunk : List Byte) (h : s.pos.toNat + chunk.length < 64) :
    (s.update chunk).chain = s.chain ∧ (s.update chunk).work = s.work := by
  have hlt : chunk.length < 64 - s.pos.toNat := by omega
  rw [State.update_short hlt]
  simp [State.updateShort]

/-- A read of a DATA register that was written shows the same in states with the same window. -/
theorem State.busRead_data_congr {s t : State} (hd : t.data = s.data) (hw : t.written = s.written) {k : Fin 16}
    (hk : s.written[k] = true) :
    (t.busRead (0x40 + 4 * k.val) 4).map Prod.fst = (s.busRead (0x40 + 4 * k.val) 4).map Prod.fst := by
  rw [State.busRead_data hk, State.busRead_data (hw ▸ hk), hd]
  rfl

/-- Settles O46: both are UPDATE of some bytes, whose frame is `State.update_err` and those beside it. -/
theorem absorbAndFinalLeaveTheRest : Obligations.AbsorbAndFinalLeaveTheRest := by
  unfold Obligations.AbsorbAndFinalLeaveTheRest
  rintro s t i (rfl | ⟨len, rfl⟩) h
  · obtain rfl : s.finalize.retire = t := by simpa [exec, execFinal] using h
    have hread (k : Fin 16) := State.busRead_data_congr (s := s) (t := s.finalize.retire) (k := k) (by simp) (by simp)
    simpa using hread
  · obtain ⟨bytes, hl, rfl⟩ := execAbsorb_next h
    have hread (k : Fin 16) := State.busRead_data_congr (s := s) (t := (s.update bytes).retire) (k := k) (by simp)
      (by simp)
    have hshort := s.update_chain_work_of_short bytes
    rw [hl] at hshort
    simpa using ⟨hshort, hread⟩

end Sys2Proof.Machine
end

section
/-! PROOFS. What the window shows: STATUS (R33), the digest bytes (R35, R55), nothing internal while BUSY = 1 (R37); and
a COMPRESS seen step by step (R39, R105). -/

namespace Sys2Proof.Machine

/-! ## STATUS -/

/-- R33, bit by bit. -/
theorem State.statusWith_getLsbD (s : State) (pos : BitVec 6) (i : Nat) :
    (s.statusWith pos).getLsbD i =
      if i < 1 then (BitVec.ofBool s.busy).getLsbD i
      else if i < 2 then (BitVec.ofBool s.done).getLsbD (i - 1)
      else if i < 3 then (BitVec.ofBool s.err).getLsbD (i - 2)
      else if i < 4 then false
      else if i < 8 then s.errcode.getLsbD (i - 4)
      else if i < 14 then pos.getLsbD (i - 8) else false := by
  simp only [State.statusWith, BitVec.getLsbD_append, BitVec.getLsbD_zero]
  grind

/-- R33, field by field. -/
theorem State.statusWith_fields (s : State) (pos : BitVec 6) :
    (s.statusWith pos).extractLsb' 0 1 = BitVec.ofBool s.busy ∧
    (s.statusWith pos).extractLsb' 1 1 = BitVec.ofBool s.done ∧
    (s.statusWith pos).extractLsb' 2 1 = BitVec.ofBool s.err ∧
    (s.statusWith pos).extractLsb' 3 1 = 0#1 ∧
    (s.statusWith pos).extractLsb' 4 4 = s.errcode ∧
    (s.statusWith pos).extractLsb' 14 18 = 0#18 ∧
    (s.statusWith pos).extractLsb' 8 6 = pos := by
  refine ⟨?_, ?_, ?_, ?_, ?_, ?_, ?_⟩ <;> refine BitVec.eq_of_getLsbD_eq fun i hi => ?_ <;>
    rw [BitVec.getLsbD_extractLsb', State.statusWith_getLsbD] <;> grind

/-- Settles O15: a read of STATUS is `statusWith` of POS, or of a free value while BUSY = 1. -/
theorem statusShowsTheFlags : Obligations.StatusShowsTheFlags := by
  unfold Obligations.StatusShowsTheFlags
  refine ⟨fun s => ?_, readReg_status_idle rfl⟩
  cases hb : s.busy with
  | true =>
    obtain ⟨hbusy, hdone, herr, hzero, hcode, hhigh, -⟩ := s.statusWith_fields ((Config.freeWord s.draws).setWidth 6)
    exact ⟨_, _, readReg_status_busy hb, hb ▸ hbusy, hdone, herr, hzero, hcode, hhigh, nofun⟩
  | false =>
    obtain ⟨hbusy, hdone, herr, hzero, hcode, hhigh, hpos⟩ := s.statusWith_fields s.pos
    exact ⟨_, _, readReg_status_idle hb, hb ▸ hbusy, hdone, herr, hzero, hcode, hhigh, fun _ => hpos⟩

/-! ## Reads while BUSY = 1 -/

/-- Settles O17: register by register; the readable registers of the context show free values, and the others do not
depend on the context. -/
theorem nothingInternalIsReadWhileBusy : Obligations.NothingInternalIsReadWhileBusy := by
  unfold Obligations.NothingInternalIsReadWhileBusy
  intro s chain buf pos count work off width hb
  unfold State.busRead
  cases accessFault off width with
  | some f => rfl
  | none =>
    refine congrArg Except.ok ?_
    cases regAt off with
    | ctrl => rfl
    | reserved => rfl
    | data k =>
      simp only [State.readReg]
      split <;> rfl
    | _ => simp [State.readReg, State.anyWhileBusy, State.statusWith, hb]

/-! ## The digest bytes -/

theorem windowOffset_base_add {off : Nat} (h : off < 128) : windowOffset (Config.md5Base + off) = some off := by
  rw [windowOffset, if_pos ⟨Nat.le_add_right _ _, Nat.add_lt_add_left h _⟩, Nat.add_sub_cancel_left]

/-- The byte at a bus address of the window is a byte lane of the aligned read there (R55, R56). -/
theorem State.busByte_of_busRead {s u : State} {off : Nat} {v : Word} (h : off < 128)
    (hr : s.busRead (4 * (off / 4)) 4 = .ok (v, u)) :
    s.busByte (Config.md5Base + off) = some (byteLane v (off % 4)) := by
  simp only [State.busByte, windowOffset_base_add h, hr]

/-- The digest words, in the order of their offsets (R35). -/
def Chain.words (h : Chain) : List Word := [h.a, h.b, h.c, h.d]

theorem Chain.words_flatMap (h : Chain) :
    h.words.flatMap le32bytes = le32bytes h.a ++ le32bytes h.b ++ le32bytes h.c ++ le32bytes h.d := by
  simp [Chain.words]

/-- R31, R35: the q-th digest word is read at offset 0x10 + 4q. -/
theorem State.busRead_digest {s : State} (hb : s.busy = false) {q : Nat} (hq : q < 4) :
    ∃ v, s.chain.words[q]? = some v ∧ s.busRead (0x10 + 4 * q) 4 = .ok (v, s) := by
  interval_cases q <;>
    exact ⟨_, rfl, by simp [State.busRead, accessFault, regAt, State.readReg, State.anyWhileBusy, hb]⟩

/-- Settles O16: byte j is lane j mod 4 of digest word j div 4. -/
theorem digestBytesStandInAddressOrder : Obligations.DigestBytesStandInAddressOrder := by
  unfold Obligations.DigestBytesStandInAddressOrder
  intro s j hb hj
  obtain ⟨v, hv, hread⟩ := State.busRead_digest hb (show j / 4 < 4 by omega)
  have haligned : 0x10 + 4 * (j / 4) = 4 * ((0x10 + j) / 4) := by omega
  rw [haligned] at hread
  calc s.busByte (Config.md5Base + 0x10 + j)
      = some (byteLane v (j % 4)) := by
        rw [Nat.add_assoc, State.busByte_of_busRead (by omega) hread, show (0x10 + j) % 4 = j % 4 by omega]
    _ = (s.chain.words.flatMap le32bytes)[4 * (j / 4) + j % 4]? := by
        rw [getElem?_flatMap_le32bytes _ _ _ (Nat.mod_lt _ (by decide)), hv]
        rfl
    _ = _ := by rw [Nat.div_add_mod, Chain.words_flatMap]

/-! ## A COMPRESS seen step by step -/

/-- One step inside a COMPRESS. -/
theorem step_of_compressing {s : State} (h : s.compressing = true) :
    step s = .next (({ s with work := s.work.tick } : State).afterStep s.work.step) := by
  rw [step, if_pos h, compressorTurn, exec_decodeStep]

theorem State.afterStep_of_ne {i : BitVec 6} (h : i ≠ 63#6) (s : State) : s.afterStep i = s := if_neg h

theorem core_run_succ {s t : State} (n : Nat) (h : step s = .next t) :
    Host.Core.run core (n + 1) s = Host.Core.run core n t := by
  simp only [Host.Core.run, show core.step s = .next t from h]

/-- From step index 63 - n of a COMPRESS, n + 1 steps run it to its end. -/
theorem run_to_endCompress (n : Nat) (s : State) (hc : s.compressing = true) (hn : s.work.step.toNat + n = 63) :
    Host.Core.run core (n + 1) s = .next ({ s with work := s.work.ticks (n + 1) } : State).endCompress := by
  rw [core_run_succ n (step_of_compressing hc)]
  induction n generalizing s with
  | zero =>
    have hlast : s.work.step = 63#6 := BitVec.eq_of_toNat_eq hn
    rw [State.afterStep, if_pos hlast, Work.ticks_tick]
    rfl
  | succ n ih =>
    have hne : s.work.step ≠ 63#6 := fun he => by
      rw [he] at hn
      simp at hn
    have hstep : s.work.tick.step.toNat + n = 63 := by
      rw [Work.tick_step, BitVec.toNat_add, show (1 : BitVec 6).toNat = 1 from rfl]
      omega
    rw [State.afterStep_of_ne hne, Work.ticks_tick, core_run_succ n (step_of_compressing (by exact hc))]
    exact ih { s with work := s.work.tick } hc hstep

/-- Settles O34. -/
theorem sixtyFourStepsAreOneCompress : Obligations.SixtyFourStepsAreOneCompress :=
  fun s blk => run_to_endCompress 63 (s.beginCompress blk) rfl rfl

end Sys2Proof.Machine
end

section
/-! PROOFS. The register window: what each access does and when one gets a bus error (R52, R53), reads without side
effects (R58), the bound on how long a command pends (R62), and the DATA window at acceptance (R63). -/

namespace Sys2Proof.Machine

/-! ## Legal and illegal accesses -/

theorem accessFault_of_aligned {off : Nat} (h : off % 4 = 0) (hle : off ≤ 0x7C) : accessFault off 4 = none := by
  rw [accessFault, if_neg (by omega), if_neg (by omega)]

theorem accessFault_of_misaligned {off width : Nat} (hlt : off < 0x80) (h : width ≠ 4 ∨ off % 4 ≠ 0) :
    accessFault off width = some .busError := by
  rw [accessFault, if_neg (by omega), if_pos h]

theorem accessFault_of_outside {off width : Nat} (h : 0x80 ≤ off) : accessFault off width = some .outsideWindow :=
  if_pos h

theorem State.busRead_of_legal {off width : Nat} (s : State) (h : accessFault off width = none) :
    s.busRead off width = .ok (s.readReg (regAt off)) := by
  simp only [State.busRead, h]

theorem State.busRead_of_fault {off width : Nat} {f : Fault} (s : State) (h : accessFault off width = some f) :
    s.busRead off width = .error f := by
  simp only [State.busRead, h]

theorem State.busWrite_of_legal {off width : Nat} (s : State) (v : Word) (h : accessFault off width = none) :
    s.busWrite off width v = .ok (s.writeReg (regAt off) v) := by
  simp only [State.busWrite, h]

theorem State.busWrite_of_fault {off width : Nat} {f : Fault} (s : State) (v : Word)
    (h : accessFault off width = some f) : s.busWrite off width v = .error f := by
  simp only [State.busWrite, h]

/-! ## What each register of the window does -/

theorem regAt_reserved {off : Nat} (hlo : 0x20 ≤ off) (hhi : off ≤ 0x3C) : regAt off = .reserved := by
  unfold regAt
  repeat rw [if_neg (by omega)]
  rw [if_pos (by omega)]

/-- Between CTRL and DATA0 a write has no effect (R31). -/
theorem State.writeReg_readOnly {off : Nat} (hlo : 0x04 ≤ off) (hhi : off ≤ 0x3C) (v : Word) (s : State) :
    s.writeReg (regAt off) v = s := by
  rcases s.writeReg_cases (regAt off) v with ⟨hctrl, -⟩ | ⟨k, hdata, -⟩ | h
  · have := regAt_ctrl.mp hctrl
    omega
  · have := le_of_regAt_data hdata
    omega
  · exact h

theorem State.anyWhileBusy_idle {s : State} (h : s.busy = false) (v : Word) : s.anyWhileBusy v = (v, s) := by
  simp [State.anyWhileBusy, h]

theorem State.readReg_eq_withDraws (r : Reg) (s : State) :
    (s.readReg r).2 = { s with draws := (s.readReg r).2.draws } := by
  rcases s.readReg_state r with h | h
  · rw [h]
  · rw [h]
    rfl

/-- Settles O20, register by register. -/
theorem windowReadsAndWritesFollowTheRegisterMap : Obligations.WindowReadsAndWritesFollowTheRegisterMap := by
  unfold Obligations.WindowReadsAndWritesFollowTheRegisterMap
  intro s
  refine ⟨fun v => rfl, s.busWrite_data, fun off v hmod hlo hhi => ?_, fun off hmod hle => ?_, ⟨s, rfl⟩,
    fun off hmod hlo hhi => ?_, ?_, fun hb => ?_, fun k => State.busRead_data⟩
  · rw [s.busWrite_of_legal v (accessFault_of_aligned hmod (by omega)), State.writeReg_readOnly hlo hhi]
  · exact ⟨_, _, s.busRead_of_legal (accessFault_of_aligned hmod hle), s.readReg_eq_withDraws (regAt off)⟩
  · exact ⟨s, by rw [s.busRead_of_legal (accessFault_of_aligned hmod (by omega)), regAt_reserved hlo hhi]; rfl⟩
  · cases hb : s.busy with
    | true => exact ⟨_, _, readReg_status_busy hb, nofun⟩
    | false => exact ⟨_, _, readReg_status_idle hb, fun _ => rfl⟩
  · have hread (v : Word) := congrArg (Except.ok (ε := Fault)) (State.anyWhileBusy_idle hb v)
    exact ⟨hread _, hread _, hread _, hread _, hread _, hread _⟩

/-! ## Whose turn the next step is (R61, R62) -/

theorem step_of_idle {s : State} (hc : s.compressing = false) (hs : s.sched = []) (hb : s.busy = false) :
    step s = hostTurn s := by
  simp [step, hc, hs, hb]

theorem step_of_pending {s : State} (hc : s.compressing = false) (hs : s.sched = []) (hb : s.busy = true) :
    step s = engineTurn s := by
  simp [step, hc, hs, hb]

theorem step_of_hostTurn {s : State} {rest : List Turn} (hc : s.compressing = false) (hs : s.sched = .host :: rest) :
    step s = hostTurn (s.took rest) := by
  simp [step, hc, hs]

theorem step_of_engineTurn {s : State} {rest : List Turn} (hc : s.compressing = false)
    (hs : s.sched = .engine :: rest) : step s = engineTurn (s.took rest) := by
  simp [step, hc, hs]

theorem step_of_resetTurn {s : State} {rest : List Turn} (hc : s.compressing = false)
    (hs : s.sched = .reset :: rest) : step s = .next (s.took rest).resetEngine := by
  simp [step, hc, hs]

/-! ## Bus errors -/

/-- Settles O21: `accessFault` names the fault, and the host's turn ends in it. -/
theorem onlyAlignedWordAccessesAreServed : Obligations.OnlyAlignedWordAccessesAreServed := by
  unfold Obligations.OnlyAlignedWordAccessesAreServed
  refine ⟨fun s off width v hlt hne => ?_, fun s off width v hge => ?_,
    fun s off width k v rest hc hs hb hlt hne hh => ?_⟩
  · have hf := accessFault_of_misaligned hlt hne
    exact ⟨s.busRead_of_fault hf, s.busWrite_of_fault v hf⟩
  · have hf := accessFault_of_outside (width := width) hge
    exact ⟨s.busRead_of_fault hf, s.busWrite_of_fault v hf⟩
  · have hf := accessFault_of_misaligned hlt hne
    rw [step_of_idle hc hs hb]
    rcases hh with hh | hh
    · simp only [hostTurn, hh, HostOp.run, s.busRead_of_fault hf]
    · simp only [hostTurn, hh, HostOp.run, s.busWrite_of_fault v hf]

/-! ## Side effects -/

theorem State.storeData_idem (s : State) (k : Fin 16) (v : Word) :
    (s.storeData k v).storeData k v = s.storeData k v := by
  simp [State.storeData]

/-- Settles O22: a read steps by `Stepped.read`, a DATA write is `storeData`. -/
theorem readsHaveNoSideEffects : Obligations.ReadsHaveNoSideEffects := by
  unfold Obligations.ReadsHaveNoSideEffects
  refine ⟨fun s t off width k he h => ?_, fun s t u k v ht hu => ?_⟩
  · have hst := step_stepped h
    rw [he] at hst
    cases hst with
    | read rest _ _ _ ops v u hc hh ha hu => rcases hu with rfl | rfl <;> rfl
  · rw [State.busWrite_data] at ht hu
    cases ht
    cases hu
    exact s.storeData_idem k v

/-! ## A pending command is executed in time -/

/-- Under the invariant an engine's turn goes on, and leaves nothing pending. -/
theorem State.Inv.engineTurn_next {s : State} (hs : s.Inv) : ∃ t, engineTurn s = .next t ∧ t.busy = false := by
  unfold engineTurn
  have hbusy := hs.busyIffPending
  cases hp : s.pend with
  | none =>
    have hb : s.busy = false := by rw [hbusy, hp]; rfl
    exact ⟨s, by simp [hb], hb⟩
  | some p =>
    have hb : s.busy = true := by rw [hbusy, hp]; rfl
    rw [if_pos hb]
    cases p with
    | absorb len bytes => exact ⟨_, execAbsorb_of_pend hp (hs.pendingLength len bytes hp).2, rfl⟩
    | _ => exact ⟨_, rfl, rfl⟩

/-- A host statement without a bus error goes on. -/
theorem HostOp.run_next_of_legal {op : HostOp} (h : op.legal = true) (rest : List HostOp) (s : State) :
    ∃ t, op.run rest s = .next t := by
  cases op with
  | read off width k =>
    simp only [HostOp.run, s.busRead_of_legal (Option.isNone_iff_eq_none.mp h)]
    exact ⟨_, rfl⟩
  | write off width v =>
    simp only [HostOp.run, s.busWrite_of_legal v (Option.isNone_iff_eq_none.mp h)]
    exact ⟨_, rfl⟩
  | poll =>
    cases hb : s.busy with
    | true => exact ⟨_, HostOp.run_poll_busy rest hb⟩
    | false => exact ⟨_, HostOp.run_poll_idle rest hb⟩
  | expect k imm => exact ⟨_, rfl⟩

theorem hostTurn_next_of_legal {s : State} (h : ∀ op ∈ s.host, op.legal = true) : ∃ t, hostTurn s = .next t := by
  unfold hostTurn
  cases hh : s.host with
  | nil => exact ⟨s, rfl⟩
  | cons op rest => exact op.run_next_of_legal (h op (by simp [hh])) rest s

/-- A turn of the host takes no other turn, and adds no statement to the program. -/
theorem hostTurn_sched_host {s t : State} (h : hostTurn s = .next t) : t.sched = s.sched ∧ t.host ⊆ s.host := by
  rcases hostTurn_cases h with ⟨-, rfl⟩ | ⟨off, width, k, rest, v, u, hh, hr, rfl⟩ | ⟨off, width, v, rest, u, hh, hw,
    rfl⟩ | ⟨rest, v, u, hh, hr, rfl⟩ | ⟨k, imm, rest, hh, rfl⟩
  · exact ⟨rfl, List.Subset.refl _⟩
  · obtain ⟨-, rfl | rfl, -⟩ := State.busRead_ok hr <;> exact ⟨rfl, by simp [hh]⟩
  · obtain ⟨-, rfl⟩ := State.busWrite_ok hw
    exact ⟨State.writeReg_sched _ _ _, by simp [hh]⟩
  · obtain ⟨-, rfl | rfl, -⟩ := State.busRead_ok hr <;> split <;> exact ⟨rfl, by simp [hh]⟩
  · exact ⟨rfl, by simp [hh]⟩

theorem core_run_one {s t : State} (h : step s = .next t) : Host.Core.run core 1 s = .next t :=
  core_run_succ 0 h

/-- BUSY = 0 is reached within the turns laid down and one more step: a turn of the engine or a reset ends it, a turn of
the host leaves one turn fewer, and with no turns left the engine moves. -/
theorem State.Inv.idle_in_time {s : State} (hs : s.Inv) (hl : ∀ op ∈ s.host, op.legal = true) :
    ∃ k t, k ≤ s.sched.length + 1 ∧ Host.Core.run core k s = .next t ∧ t.busy = false := by
  have hc := hs.notCompressing
  induction hsched : s.sched generalizing s with
  | nil =>
    cases hb : s.busy with
    | false => exact ⟨0, s, Nat.zero_le _, rfl, hb⟩
    | true =>
      obtain ⟨t, ht, htb⟩ := hs.engineTurn_next
      exact ⟨1, t, by simp, core_run_one ((step_of_pending hc hsched hb).trans ht), htb⟩
  | cons turn rest ih =>
    cases turn with
    | host =>
      obtain ⟨t, ht⟩ := hostTurn_next_of_legal (s := s.took rest) hl
      obtain ⟨htsched, hthost⟩ := hostTurn_sched_host ht
      have hstep := (step_of_hostTurn hc hsched).trans ht
      have hinv := everyStepKeepsTheContextInvariant s t hs hstep
      obtain ⟨k, u, hk, hrun, hub⟩ := ih hinv (fun op hop => hl op (hthost hop)) hinv.notCompressing htsched
      exact ⟨k + 1, u, Nat.succ_le_succ hk, (core_run_succ k hstep).trans hrun, hub⟩
    | engine =>
      obtain ⟨t, ht, htb⟩ := (hs.took rest).engineTurn_next
      exact ⟨1, t, by simp, core_run_one ((step_of_engineTurn hc hsched).trans ht), htb⟩
    | reset => exact ⟨1, _, by simp, core_run_one (step_of_resetTurn hc hsched), rfl⟩

/-- Settles O23. -/
theorem acceptedCommandIsExecutedInTime : Obligations.AcceptedCommandIsExecutedInTime :=
  fun _ hs _ hl => hs.idle_in_time hl

/-! ## The window at acceptance, and DATA writes after it -/

/-- An ABSORB that acceptance puts in PEND holds the window's bytes. -/
theorem State.accept_pend_absorb {s : State} {v : Word} {len : BitVec 7} {bytes : List Byte} (hp : s.pend = none)
    (h : (s.accept v).pend = some (.absorb len bytes)) : bytes = s.snapshot len.toNat := by
  rcases s.accept_cases v with ⟨ha, -⟩ | ⟨c, ha⟩ | ⟨ha, -⟩ | ⟨ha, -⟩ | ⟨ha, -⟩ | ⟨len', ha, -⟩
  case inr.inr.inr.inr.inr =>
    rw [ha, State.pendAbsorb_pend] at h
    cases h
    rfl
  all_goals simp [ha, hp] at h

/-- The word stored in DATAk is the one read there; every other register reads as before. -/
theorem State.windowWords_storeData (s : State) (k : Fin 16) (v : Word) :
    (s.storeData k v).windowWords = s.windowWords.set k.val v := by
  ext i hi : 1
  by_cases hk : k.val = i
  · simp [State.windowWords, State.dataWord, hk]
  · simp [State.windowWords, State.dataWord, Vector.getElem_set_ne, hk]

/-! UPDATE does not look at DATA, so it commutes with a store there. -/

theorem State.compress_storeData (k : Fin 16) (v : Word) (blk : Vector Byte 64) (s : State) :
    (s.storeData k v).compress blk = (s.compress blk).storeData k v := rfl

theorem State.compressSlices_storeData (k : Fin 16) (v : Word) (n : Nat) (bytes : List Byte) (s : State) :
    (s.storeData k v).compressSlices n bytes = (s.compressSlices n bytes).storeData k v := by
  induction n generalizing bytes s with
  | zero => rfl
  | succ n ih => rw [State.compressSlices, State.compress_storeData, ih, State.compressSlices]

theorem State.updateFull_storeData (k : Fin 16) (v : Word) (chunk : List Byte) (s : State) :
    (s.storeData k v).updateFull chunk = (s.updateFull chunk).storeData k v := by
  have hblocks (full : Vector Byte 64) (n : Nat) (rest : List Byte) :
      (({ s.storeData k v with buf := full } : State).compress full).compressSlices n rest =
        ((({ s with buf := full } : State).compress full).compressSlices n rest).storeData k v :=
    State.compressSlices_storeData k v n rest (({ s with buf := full } : State).compress full)
  unfold State.updateFull
  dsimp only
  rw [hblocks]
  rfl

theorem State.update_storeData (k : Fin 16) (v : Word) (chunk : List Byte) (s : State) :
    (s.storeData k v).update chunk = (s.update chunk).storeData k v := by
  by_cases hlen : chunk.length < 64 - s.pos.toNat
  · rw [State.update_short hlen, State.update_short (s := s.storeData k v) hlen]
    rfl
  · rw [State.update_full hlen, State.update_full (s := s.storeData k v) hlen, State.updateFull_storeData]

/-- A command's execution commutes with a store in DATA. -/
theorem exec_pending_storeData (k : Fin 16) (v : Word) (p : Pending) (s : State) :
    exec p.instr (s.storeData k v) = Outcome.mapNext (State.storeData k v) (exec p.instr s) := by
  cases p with
  | nop => rfl
  | init => rfl
  | absorb len _ =>
    change execAbsorb len (s.storeData k v) = Outcome.mapNext _ (execAbsorb len s)
    unfold execAbsorb
    rw [show (s.storeData k v).operand len.toNat = s.operand len.toNat from rfl]
    cases s.operand len.toNat with
    | none => rfl
    | some bytes => exact congrArg (fun u : State => Host.Outcome.next u.retire) (s.update_storeData k v bytes)
  | final => exact congrArg (fun u : State => Host.Outcome.next u.setDone.retire) (s.update_storeData k v _)

/-- Settles O24. -/
theorem laterDataWritesDoNotReachAPendingCommand : Obligations.LaterDataWritesDoNotReachAPendingCommand := by
  unfold Obligations.LaterDataWritesDoNotReachAPendingCommand
  refine ⟨fun s v len bytes _ hp h => State.accept_pend_absorb hp h, State.windowWords_storeData,
    fun s t p k v _ h => ?_⟩
  exact (exec_pending_storeData k v p s).trans (by rw [h]; rfl)

end Sys2Proof.Machine
end

section
/-! PROOFS. The encoding: the command word and its fields (R70 to R76), the step index (R77, R78), and their bytes. -/

namespace Sys2Proof

/-! ## The fields of a command word (R70) -/

theorem opField_toNat (v : Word) : (opField v).toNat = v.toNat % 16 := by
  simp [opField, BitVec.extractLsb'_toNat]

theorem lenField_toNat (v : Word) : (lenField v).toNat = v.toNat / 256 % 128 := by
  simp [lenField, BitVec.extractLsb'_toNat, Nat.shiftRight_eq_div_pow]

theorem reservedClear_iff (v : Word) :
    reservedClear v = true ↔ v.toNat / 16 % 16 = 0 ∧ v.toNat / 32768 = 0 := by
  have hlt := v.isLt
  simp only [reservedClear, Bool.and_eq_true, beq_iff_eq, ← BitVec.toNat_inj, BitVec.extractLsb'_toNat,
    Nat.shiftRight_eq_div_pow, BitVec.toNat_ofNat]
  omega

theorem commandWord_toNat (op : BitVec 4) (len : BitVec 7) :
    (commandWord op len).toNat = op.toNat + len.toNat * 256 := by
  have hop := op.isLt
  have hlen := len.isLt
  simp only [commandWord, BitVec.toNat_or, BitVec.toNat_shiftLeft, BitVec.toNat_setWidth]
  rw [Nat.mod_eq_of_lt (by omega : op.toNat < 2 ^ 32), Nat.mod_eq_of_lt (by omega : len.toNat < 2 ^ 32),
    Nat.shiftLeft_eq, Nat.mod_eq_of_lt (by omega), ← Nat.shiftLeft_eq, Nat.or_comm,
    ← Nat.shiftLeft_add_eq_or_of_lt (by omega), Nat.shiftLeft_eq, Nat.add_comm]

/-- A word is determined by its two fields when its reserved bits are 0. -/
theorem eq_commandWord_iff {v : Word} {op : BitVec 4} {len : BitVec 7} :
    v = commandWord op len ↔ reservedClear v = true ∧ opField v = op ∧ lenField v = len := by
  have hop := op.isLt
  have hlen := len.isLt
  rw [reservedClear_iff]
  simp only [← BitVec.toNat_inj, commandWord_toNat, opField_toNat, lenField_toNat]
  omega

@[simp] theorem reservedClear_commandWord (op : BitVec 4) (len : BitVec 7) :
    reservedClear (commandWord op len) = true := (eq_commandWord_iff.mp rfl).1

@[simp] theorem opField_commandWord (op : BitVec 4) (len : BitVec 7) : opField (commandWord op len) = op :=
  (eq_commandWord_iff.mp rfl).2.1

@[simp] theorem lenField_commandWord (op : BitVec 4) (len : BitVec 7) : lenField (commandWord op len) = len :=
  (eq_commandWord_iff.mp rfl).2.2

/-! ## What a command word decodes to (R73) -/

/-- R73's conditions for an illegal word. -/
def IllegalFields (v : Word) : Prop :=
  reservedClear v = false ∨ 4 ≤ (opField v).toNat ∨ (opField v ≠ 2#4 ∧ lenField v ≠ 0#7)

theorem decodeCommand_of_illegalFields {v : Word} (h : IllegalFields v) : decodeCommand v = .illegal := by
  unfold decodeCommand
  rcases h with hres | hop | hlen
  · rw [if_pos hres]
  · rw [if_pos hop, ite_self]
  · rw [if_pos hlen, ite_self, ite_self]

theorem decodeCommand_absorb (len : BitVec 7) :
    decodeCommand (commandWord 2 len) = if 64 < len.toNat then .badLen else .absorb len := by
  simp only [decodeCommand, reservedClear_commandWord, opField_commandWord, lenField_commandWord]
  rfl

/-- `Decodes v d`: the word `v` stands for `d` (R73); every word that is not illegal is written out. -/
inductive Decodes : Word → DecodedCommand → Prop where
  | illegal (v : Word) (h : IllegalFields v) : Decodes v .illegal
  | nop : Decodes (commandWord 0 0) .nop
  | init : Decodes (commandWord 1 0) .init
  | final : Decodes (commandWord 3 0) .final
  | badLen (len : BitVec 7) (h : 64 < len.toNat) : Decodes (commandWord 2 len) .badLen
  | absorb (len : BitVec 7) (h : len.toNat ≤ 64) : Decodes (commandWord 2 len) (.absorb len)

/-- The inversion of the decoder: each word with legal fields is one of the words written out. -/
theorem decodes_decodeCommand (v : Word) : Decodes v (decodeCommand v) := by
  by_cases hill : IllegalFields v
  · rw [decodeCommand_of_illegalFields hill]
    exact .illegal v hill
  simp only [IllegalFields, not_or, Bool.not_eq_false, not_le, not_and_not_right] at hill
  obtain ⟨hres, hlt, hlen⟩ := hill
  have hv : v = commandWord (opField v) (lenField v) := eq_commandWord_iff.mpr ⟨hres, rfl, rfl⟩
  generalize opField v = op at hv hlt hlen
  generalize lenField v = len at hv hlen
  subst hv
  have hop : op = 0 ∨ op = 1 ∨ op = 2 ∨ op = 3 := by
    simp only [← BitVec.toNat_inj, BitVec.ofNat_eq_ofNat, BitVec.toNat_ofNat]
    omega
  rcases hop with rfl | rfl | rfl | rfl
  case inr.inr.inl =>
    rw [decodeCommand_absorb]
    split
    · exact .badLen len ‹_›
    · exact .absorb len (by omega)
  all_goals obtain rfl := hlen (by decide)
  · exact .nop
  · exact .init
  · exact .final

theorem decodeCommand_eq_iff {v : Word} {d : DecodedCommand} : decodeCommand v = d ↔ Decodes v d := by
  refine ⟨fun h => h ▸ decodes_decodeCommand v, fun h => ?_⟩
  cases h with
  | illegal _ hill => exact decodeCommand_of_illegalFields hill
  | badLen len hlen => exact (decodeCommand_absorb len).trans (if_pos hlen)
  | absorb len hlen => exact (decodeCommand_absorb len).trans (if_neg (by omega))
  | _ => rfl

/-! Which words stand for each answer, in terms of their fields or written out. -/

theorem Decodes.illegal_iff {v : Word} : Decodes v .illegal ↔ IllegalFields v :=
  ⟨fun | .illegal _ h => h, .illegal v⟩

theorem Decodes.nop_iff {v : Word} : Decodes v .nop ↔ v = 0x00000000 :=
  ⟨fun | .nop => rfl, fun h => h ▸ .nop⟩

theorem Decodes.init_iff {v : Word} : Decodes v .init ↔ v = 0x00000001 :=
  ⟨fun | .init => rfl, fun h => h ▸ .init⟩

theorem Decodes.final_iff {v : Word} : Decodes v .final ↔ v = 0x00000003 :=
  ⟨fun | .final => rfl, fun h => h ▸ .final⟩

theorem Decodes.badLen_iff {v : Word} :
    Decodes v .badLen ↔ reservedClear v = true ∧ opField v = 2#4 ∧ 65 ≤ (lenField v).toNat := by
  refine ⟨fun h => ?_, fun ⟨hres, hop, hlen⟩ => ?_⟩
  · cases h with
    | badLen len hlen => exact ⟨by simp, by simp, by rwa [lenField_commandWord]⟩
  · rw [eq_commandWord_iff.mpr ⟨hres, hop, rfl⟩]
    exact .badLen _ hlen

theorem Decodes.absorb_iff {v : Word} {n : BitVec 7} :
    Decodes v (.absorb n) ↔ n.toNat ≤ 64 ∧ v.toNat = 2 + n.toNat * 0x100 := by
  refine ⟨fun h => ?_, fun ⟨hle, hv⟩ => ?_⟩
  · cases h with
    | absorb _ hle => exact ⟨hle, commandWord_toNat 2 n⟩
  · rw [BitVec.eq_of_toNat_eq (hv.trans (commandWord_toNat 2 n).symm)]
    exact .absorb n hle

/-! ## The step index (R77, R78) -/

theorem stepKind_stepIndex (k : StepKind) (posn : BitVec 4) : stepKind (stepIndex k posn) = k := by
  cases k <;> revert posn <;> decide

theorem posnField_stepIndex (k : StepKind) (posn : BitVec 4) : posnField (stepIndex k posn) = posn := by
  cases k <;> revert posn <;> decide

theorem stepIndex_fields (i : BitVec 6) : stepIndex (stepKind i) (posnField i) = i := by
  revert i; decide

/-- The instruction of a step kind at a position. -/
def StepKind.instr : StepKind → BitVec 4 → Instr
  | .F => .stepF
  | .G => .stepG
  | .H => .stepH
  | .I => .stepI

theorem decodeStep_eq (i : BitVec 6) : decodeStep i = (stepKind i).instr (posnField i) := by
  unfold decodeStep
  cases stepKind i <;> rfl

theorem encode_instr (k : StepKind) (posn : BitVec 4) : encode (k.instr posn) = [(stepIndex k posn).setWidth 8] := by
  cases k <;> rfl

theorem StepKind.instr_wf (k : StepKind) (posn : BitVec 4) : (k.instr posn).wf = true := by
  cases k <;> rfl

theorem encode_decodeStep (i : BitVec 6) : encode (decodeStep i) = [i.setWidth 8] := by
  rw [decodeStep_eq, encode_instr, stepIndex_fields]

/-! ## The bytes of an instruction -/

theorem decodeBytes_le32bytes (v : Word) : decodeBytes (le32bytes v) = (decodeCommand v).toInstr :=
  congrArg (fun w => (decodeCommand w).toInstr) (le32_of_le32bytes v)

theorem Decodes.decodeBytes_eq {v : Word} {d : DecodedCommand} (h : Decodes v d) :
    decodeBytes (le32bytes v) = d.toInstr := by
  rw [decodeBytes_le32bytes, decodeCommand_eq_iff.mpr h]

theorem decodeBytes_stepIndex (i : BitVec 6) : decodeBytes [i.setWidth 8] = .ok (decodeStep i) := by
  have hi : i.toNat < 64 := i.isLt
  have hlt : (i.setWidth 8).toNat < 64 := by rw [BitVec.toNat_setWidth]; omega
  simp only [decodeBytes, if_pos hlt, BitVec.setWidth_setWidth_of_le i (by decide : 6 ≤ 8), BitVec.setWidth_eq]

theorem decodeBytes_encode_instr (k : StepKind) (posn : BitVec 4) :
    decodeBytes (encode (k.instr posn)) = .ok (k.instr posn) := by
  rw [encode_instr, decodeBytes_stepIndex, decodeStep_eq, stepKind_stepIndex, posnField_stepIndex]

/-- Settles O2: a command's word decodes by `Decodes`, a step kind's byte by the fields of its step index. -/
theorem decodeOfEncodeGivesTheInstruction : Obligations.DecodeOfEncodeGivesTheInstruction := by
  unfold Obligations.DecodeOfEncodeGivesTheInstruction
  intro i hwf
  cases i with
  | nop => exact Decodes.nop.decodeBytes_eq
  | init => exact Decodes.init.decodeBytes_eq
  | absorb len => exact (Decodes.absorb len (of_decide_eq_true hwf)).decodeBytes_eq
  | final => exact Decodes.final.decodeBytes_eq
  | stepF posn => exact decodeBytes_encode_instr .F posn
  | stepG posn => exact decodeBytes_encode_instr .G posn
  | stepH posn => exact decodeBytes_encode_instr .H posn
  | stepI posn => exact decodeBytes_encode_instr .I posn

/-- The instruction a command word stands for is well formed, and the word is its encoding. -/
theorem Decodes.encode_toInstr {v : Word} {d : DecodedCommand} {i : Instr} (h : Decodes v d) (hi : d.toInstr = .ok i) :
    encode i = le32bytes v ∧ i.wf = true := by
  cases h with
  | illegal | badLen => cases hi
  | absorb len hle =>
    cases hi
    exact ⟨rfl, decide_eq_true hle⟩
  | _ =>
    cases hi
    exact ⟨rfl, rfl⟩

/-- One byte that decodes is a step index, and its instruction is the step that this STEP value selects. -/
theorem decodeBytes_byte_ok {b : Byte} {i : Instr} (h : decodeBytes [b] = .ok i) :
    b.toNat < 64 ∧ decodeStep (b.setWidth 6) = i := by
  simp only [decodeBytes] at h
  split at h
  · exact ⟨‹_›, Except.ok.inj h⟩
  · cases h

/-- Settles O3, by the decoder's two sizes. -/
theorem decodedBytesAreTheEncoding : Obligations.DecodedBytesAreTheEncoding := by
  unfold Obligations.DecodedBytesAreTheEncoding
  intro bytes i h
  match bytes with
  | [b0, b1, b2, b3] =>
    rw [← le32bytes_of_le32 b0 b1 b2 b3]
    exact (decodes_decodeCommand _).encode_toInstr h
  | [b] =>
    obtain ⟨hlt, rfl⟩ := decodeBytes_byte_ok h
    have hb : (b.setWidth 6).setWidth 8 = b := by
      apply BitVec.eq_of_toNat_eq
      simp only [BitVec.toNat_setWidth]
      omega
    rw [encode_decodeStep, hb, decodeStep_eq]
    exact ⟨rfl, StepKind.instr_wf _ _⟩
  | [] | [_, _] | [_, _, _] | _ :: _ :: _ :: _ :: _ :: _ => cases h

end Sys2Proof
end

section
/-! PROOFS. What the words of the encoding do in the machine: the errors at acceptance (R75), and the step that runs
the decoded instruction (R39, R121). -/

namespace Sys2Proof.Machine

/-! ## The words that raise an error at acceptance (R75) -/

theorem State.accept_of_illegal {s : State} {v : Word} (hb : s.busy = false) (hd : decodeCommand v = .illegal) :
    s.accept v = s.raiseError .illegalCmd := by
  rw [State.accept, if_neg (by simp [hb]), hd]

theorem State.accept_of_badLen {s : State} {v : Word} (hb : s.busy = false) (hd : decodeCommand v = .badLen) :
    s.accept v = s.ifFresh (s.raiseError .badLen) := by
  rw [State.accept, if_neg (by simp [hb]), hd]

theorem State.ifFresh_of_fresh {s : State} (he : s.err = false) (hd : s.done = false) (t : State) :
    s.ifFresh t = t := by
  simp [State.ifFresh, he, hd]

theorem State.raiseError_of_noError {s : State} (he : s.err = false) (c : ErrorCode) :
    s.raiseError c = { s with err := true, errcode := c.code } := by
  simp [State.raiseError, he]

/-- Settles O4: the decoder's clauses by `Decodes`, the two errors by the equations of acceptance. -/
theorem everyCommandWordIsDecodedAsTheRuleSays : Obligations.EveryCommandWordIsDecodedAsTheRuleSays := by
  unfold Obligations.EveryCommandWordIsDecodedAsTheRuleSays
  refine ⟨fun v => ?_, fun v s hb he hd => ?_, fun v s hb he hdone hd => ?_⟩
  · intro op len reserved
    have hres : reserved ↔ reservedClear v = false := by simp [reserved, reservedClear, imp_iff_not_or]
    simp only [decodeCommand_eq_iff, hres, Bool.not_eq_false]
    exact ⟨Decodes.illegal_iff, Decodes.nop_iff, Decodes.init_iff, Decodes.final_iff, Decodes.badLen_iff,
      fun _ => Decodes.absorb_iff⟩
  · rw [State.accept_of_illegal hb hd, State.raiseError_of_noError he]
    rfl
  · rw [State.accept_of_badLen hb hd, State.ifFresh_of_fresh he hdone, State.raiseError_of_noError he]
    rfl

/-! ## Where a step takes its instruction from (R39, R121) -/

theorem decodeBytes_of_decodeTableWord {nbits w : Nat} {i : Instr} (h : decodeTableWord nbits w = some i) :
    decodeBytes (tableBytes nbits w) = .ok i := by
  unfold decodeTableWord at h
  split at h
  · cases hr : decodeBytes (tableBytes nbits w) with
    | error e =>
      rw [hr] at h
      cases h
    | ok j =>
      rw [hr] at h
      cases h
      rfl
  · cases h

theorem decodeCommand_of_decodeTableWord {nbits w : Nat} {i : Instr} (hn : 8 < nbits)
    (h : decodeTableWord nbits w = some i) : (decodeCommand (BitVec.ofNat 32 w)).toInstr = .ok i := by
  have hbytes := decodeBytes_of_decodeTableWord h
  rwa [tableBytes, if_neg (Nat.not_le.mpr hn), decodeBytes_le32bytes] at hbytes

theorem decodeStep_of_decodeTableWord {w : Nat} {i : Instr} (h : decodeTableWord 8 w = some i) :
    decodeStep (BitVec.ofNat 6 w) = i := by
  have hstep := (decodeBytes_byte_ok (decodeBytes_of_decodeTableWord h)).2
  rwa [BitVec.setWidth_ofNat_of_le (by decide)] at hstep

/-- Settles O7. -/
theorem stepRunsTheStepThatStepSelects : Obligations.StepRunsTheStepThatStepSelects := by
  unfold Obligations.StepRunsTheStepThatStepSelects
  exact ⟨fun s hc => ⟨_, exec_decodeStep s, step_of_compressing hc⟩,
    fun s w i h => ⟨rfl, decodeStep_of_decodeTableWord h⟩⟩

theorem engineTurn_of_pend {s : State} {p : Pending} (hb : s.busy = true) (hp : s.pend = some p) :
    engineTurn s = exec p.instr s := by
  rw [engineTurn, if_pos hb, hp]

theorem State.nextTurn_sched (t : Turn) (s : State) :
    (s.nextTurn t).sched = if s.sched = [] then [] else t :: s.sched := by
  unfold State.nextTurn
  split
  · assumption
  · rfl

/-- When the engine's turn stands next, or none is laid down, a step executes the command in PEND, the turn taken. -/
theorem step_executes_pending {s : State} {rest : List Turn} {p : Pending} (hc : s.compressing = false)
    (hs : s.sched = if rest = [] then [] else .engine :: rest) (hb : s.busy = true) (hp : s.pend = some p) :
    step s = exec p.instr (s.took rest) := by
  split at hs
  · subst rest
    have htook : s.took [] = s := by rw [← hs]; rfl
    rw [step_of_pending hc hs hb, engineTurn_of_pend hb hp, htook]
  · rw [step_of_engineTurn hc hs]
    exact engineTurn_of_pend hb hp

/-- A command word that decodes stands in PEND with BUSY = 1, and the engine has the next turn. -/
theorem State.withCommand_of_ok {v : Word} {i : Instr} (h : (decodeCommand v).toInstr = .ok i) (s : State) :
    ∃ p : Pending, p.instr = i ∧ (s.withCommand v).pend = some p ∧ (s.withCommand v).busy = true ∧
      (s.withCommand v).compressing = false ∧
      (s.withCommand v).sched = if s.sched = [] then [] else .engine :: s.sched := by
  have hcomp : (({ s with compressing := false } : State).nextTurn .engine).compressing = false := by
    unfold State.nextTurn
    split <;> rfl
  have hsched := ({ s with compressing := false } : State).nextTurn_sched .engine
  unfold State.withCommand
  cases hd : decodeCommand v with
  | illegal | badLen =>
    rw [hd] at h
    cases h
  | _ =>
    rw [hd] at h
    cases h
    exact ⟨_, rfl, rfl, rfl, hcomp, hsched⟩

/-- Settles O6. -/
theorem stepRunsTheDecodedCommand : Obligations.StepRunsTheDecodedCommand := by
  unfold Obligations.StepRunsTheDecodedCommand
  intro s nbits w i hn _ h
  rw [State.withFetchWord, if_neg (Nat.not_le.mpr hn)]
  obtain ⟨p, rfl, hp, hb, hc, hs⟩ := s.withCommand_of_ok (decodeCommand_of_decodeTableWord hn h)
  exact step_executes_pending hc hs hb hp

end Sys2Proof.Machine
end

section
/-! PROOFS. The host agent: POLL (R80), and LOAD, whose writes put its bytes in the DATA window (R82). -/

namespace Sys2Proof.Machine

/-! ## One statement of the host -/

theorem hostTurn_cons {s : State} {op : HostOp} {rest : List HostOp} (h : s.host = op :: rest) :
    hostTurn s = op.run rest s := by
  rw [hostTurn, h]

/-- Settles O58. -/
theorem pollWaitsWhileBusy : Obligations.PollWaitsWhileBusy := by
  unfold Obligations.PollWaitsWhileBusy
  intro s rest h
  rw [hostTurn_cons h]
  exact ⟨HostOp.run_poll_busy rest, HostOp.run_poll_idle rest⟩

theorem hostTurn_writeData {s : State} {k : Fin 16} {v : Word} {rest : List HostOp}
    (h : s.host = wr (dataOffset k.val) v :: rest) : hostTurn s = .next { s.storeData k v with host := rest } := by
  rw [hostTurn_cons h]
  simp only [wr, dataOffset, HostOp.run, State.busWrite_data]

/-! ## Runs -/

theorem core_run_add {m n : Nat} {s t : State} (h : Host.Core.run core m s = .next t) :
    Host.Core.run core (m + n) s = Host.Core.run core n t := by
  induction m generalizing s with
  | zero =>
    cases h
    rw [Nat.zero_add]
  | succ m ih =>
    rw [Nat.succ_add]
    simp only [Host.Core.run] at h ⊢
    split at h
    · exact ih h
    · cases h
    · cases h

/-- On an idle engine the host's next turn comes, whatever turns are laid down before it, so long as none is a reset:
the engine's turns pass (R62). -/
theorem run_to_hostTurn {s : State} (hc : s.compressing = false) (hb : s.busy = false) (hr : .reset ∉ s.sched) :
    ∃ n rest, .reset ∉ rest ∧ ∀ t, hostTurn (s.took rest) = .next t → Host.Core.run core n s = .next t := by
  induction hsched : s.sched generalizing s with
  | nil =>
    refine ⟨1, [], List.not_mem_nil, fun t ht => core_run_one ?_⟩
    rw [step_of_idle hc hsched hb, ← ht, ← hsched]
    rfl
  | cons turn rest ih =>
    rw [hsched, List.mem_cons, not_or] at hr
    obtain ⟨hne, hrest⟩ := hr
    cases turn with
    | host => exact ⟨1, rest, hrest, fun t ht => core_run_one ((step_of_hostTurn hc hsched).trans ht)⟩
    | engine =>
      have hstep : step s = .next (s.took rest) := by
        rw [step_of_engineTurn hc hsched, engineTurn, if_neg (by simp [hb])]
      obtain ⟨n, rest', hrest', hrun⟩ := ih (s := s.took rest) hc hb hrest rfl
      exact ⟨n + 1, rest', hrest', fun t ht => (core_run_succ n hstep).trans (hrun t ht)⟩
    | reset => exact absurd rfl hne

/-! ## A host program that writes DATA registers (R32) -/

/-- The vector with `f k` put at each place `k` of the list. -/
def setAll {α : Type} (f : Fin 16 → α) (ks : List (Fin 16)) (d : Vector α 16) : Vector α 16 :=
  ks.foldl (fun d k => d.set k.val (f k)) d

theorem setAll_getElem {α : Type} (f : Fin 16 → α) (ks : List (Fin 16)) (d : Vector α 16) (i : Fin 16) :
    (setAll f ks d)[i] = if i ∈ ks then f i else d[i] := by
  induction ks generalizing d with
  | nil => rfl
  | cons k ks ih =>
    rw [setAll, List.foldl_cons, ← setAll, ih]
    by_cases hk : i = k
    · subst hk
      simp
    · simp [hk, Vector.getElem_set_ne, Fin.val_ne_of_ne (Ne.symm hk)]

theorem setAll_getElem_of_mem {α : Type} {f : Fin 16 → α} {ks : List (Fin 16)} {d : Vector α 16} {i : Fin 16}
    (h : i ∈ ks) : (setAll f ks d)[i] = f i := (setAll_getElem f ks d i).trans (if_pos h)

theorem setAll_getElem_of_notMem {α : Type} {f : Fin 16 → α} {ks : List (Fin 16)} {d : Vector α 16} {i : Fin 16}
    (h : i ∉ ks) : (setAll f ks d)[i] = d[i] := (setAll_getElem f ks d i).trans (if_neg h)

/-- The program that writes `f k` to DATAk for each `k` of the list, run on an idle engine. -/
theorem run_writeData (f : Fin 16 → Word) (ks : List (Fin 16)) {s : State} (hc : s.compressing = false)
    (hb : s.busy = false) (hr : .reset ∉ s.sched) (hh : s.host = ks.map fun k => wr (dataOffset k.val) (f k)) :
    ∃ n turns, Host.Core.run core n s = .next { s with
      host := [], sched := turns, data := setAll f ks s.data, written := setAll (fun _ => true) ks s.written } := by
  induction ks generalizing s with
  | nil =>
    refine ⟨0, s.sched, ?_⟩
    rw [show ([] : List HostOp) = s.host from hh.symm]
    rfl
  | cons k ks ih =>
    obtain ⟨m, rest, hrest, hrun⟩ := run_to_hostTurn hc hb hr
    obtain ⟨n, turns, htail⟩ := ih (s := { (s.took rest).storeData k (f k) with
      host := ks.map fun k => wr (dataOffset k.val) (f k) }) hc hb hrest rfl
    exact ⟨m + n, turns, (core_run_add (hrun _ (hostTurn_writeData hh))).trans htail⟩

/-! ## LOAD (R82) -/

/-- The DATA registers that LOAD writes for m bytes: DATA0 to DATA⌈m/4⌉-1. -/
def loadRegs (m : Nat) : List (Fin 16) := (List.range ((m + 3) / 4)).map (Fin.ofNat 16)

theorem mem_loadRegs {m : Nat} {i : Fin 16} : i ∈ loadRegs m ↔ i.val < (m + 3) / 4 := by
  simp only [loadRegs, List.mem_map, List.mem_range]
  constructor
  · rintro ⟨k, hk, rfl⟩
    exact (Nat.mod_le k 16).trans_lt hk
  · exact fun hi => ⟨i.val, hi, Fin.ofNat_val_eq_self i⟩

theorem pseudoLoad_eq {bytes : List Byte} (hm : bytes.length ≤ 64) :
    pseudoLoad bytes = (loadRegs bytes.length).map fun k => wr (dataOffset k.val) (loadWord bytes k.val) := by
  rw [pseudoLoad, loadRegs, List.map_map]
  refine List.map_congr_left fun k hk => ?_
  have hk : k < 16 := by
    have := List.mem_range.mp hk
    omega
  simp [Nat.mod_eq_of_lt hk]

theorem byteLane_loadWord (bytes : List Byte) (k : Nat) {r : Nat} (hr : r < 4) :
    byteLane (loadWord bytes k) r = bytes.getD (4 * k + r) 0 := by
  have hlanes : le32bytes (loadWord bytes k) = _ := le32bytes_of_le32 _ _ _ _
  simp only [le32bytes, List.cons.injEq] at hlanes
  obtain ⟨h0, h1, h2, h3, -⟩ := hlanes
  interval_cases r
  · exact h0
  · exact h1
  · exact h2
  · exact h3

/-- The words of LOAD, laid out in the window, are its bytes. -/
theorem windowBytes_loadWord {bytes : List Byte} (hm : bytes.length ≤ 64) :
    (windowBytes (Vector.ofFn fun k => loadWord bytes k.val)).take bytes.length = bytes := by
  refine List.ext_getElem (by simpa using hm) fun j _ hj => ?_
  have hbyte := windowBytes_getElem? (Vector.ofFn fun k : Fin 16 => loadWord bytes k.val) (hj.trans_le hm)
  rw [Vector.getElem_ofFn, byteLane_loadWord _ _ (Nat.mod_lt _ (by decide)), Nat.div_add_mod,
    List.getD_eq_getElem _ _ hj] at hbyte
  rw [List.getElem_take]
  exact Option.some.inj ((List.getElem?_eq_getElem _).symm.trans hbyte)

/-- Settles O59. -/
theorem loadPutsTheBytesInTheWindow : Obligations.LoadPutsTheBytesInTheWindow := by
  unfold Obligations.LoadPutsTheBytesInTheWindow
  intro s bytes hm hc hb hr hh
  obtain ⟨n, turns, hrun⟩ := run_writeData (fun k => loadWord bytes k.val) _ hc hb hr (hh.trans (pseudoLoad_eq hm))
  refine ⟨n, _, hrun, rfl, ?_, rfl, fun i hi => ?_⟩
  · rw [State.snapshot_eq_take (words := Vector.ofFn fun k => loadWord bytes k.val) hm, windowBytes_loadWord hm]
    intro k hk
    have hmem : k ∈ loadRegs bytes.length := mem_loadRegs.mpr (by omega)
    rw [State.dataWord, if_pos (setAll_getElem_of_mem hmem)]
    exact (Vector.getElem_ofFn _).trans (setAll_getElem_of_mem (f := fun k => loadWord bytes k.val) hmem).symm
  · have hmem : i ∉ loadRegs bytes.length := fun h => absurd (mem_loadRegs.mp h) (Nat.not_lt.mpr hi)
    exact ⟨setAll_getElem_of_notMem hmem, setAll_getElem_of_notMem hmem⟩

end Sys2Proof.Machine
end

section
/-! PROOFS. The Block Compressor (40_compressor.md): its step tables, the datapath and the meaning of a step, and
COMPRESS as the pure function of R105 and in the named-variable form of R106. -/

namespace Sys2Proof.Machine

/-! ## The step tables, by step kind and position (R97 to R99) -/

/-- R95: the round function of a step kind. -/
def roundOf : StepKind → Word → Word → Word → Word
  | .F => roundF
  | .G => roundG
  | .H => roundH
  | .I => roundI

/-- R97: the row of constants of a step kind. -/
def constRow : StepKind → Vector Word 16
  | .F => rowF
  | .G => rowG
  | .H => rowH
  | .I => rowI

/-- R99: g(i) before it is reduced modulo 16, at position j of a round. -/
def msgPosn : StepKind → Nat → Nat
  | .F, j => j
  | .G, j => 5 * j + 1
  | .H, j => 3 * j + 5
  | .I, j => 7 * j

/-- The position of a round that uses message word k: 13, 11 and 7 are the inverses of 5, 3 and 7 modulo 16. -/
def posnOfMsg : StepKind → Nat → Nat
  | .F, k => k
  | .G, k => 13 * (k + 15)
  | .H, k => 11 * (k + 11)
  | .I, k => 7 * k

@[simp] theorem constK_stepIndex (k : StepKind) (j : BitVec 4) : constK (stepIndex k j) = (constRow k)[j.toFin] := by
  simp only [constK, stepKind_stepIndex, posnField_stepIndex]
  cases k <;> rfl

@[simp] theorem msgIndex_stepIndex (k : StepKind) (j : BitVec 4) :
    msgIndex (stepIndex k j) = Fin.ofNat 16 (msgPosn k j.toNat) := by
  rw [msgIndex, stepKind_stepIndex, posnField_stepIndex]
  cases k <;> rfl

/-- R77: i mod 4 is j mod 4. -/
theorem stepIndex_mod_four (k : StepKind) (j : BitVec 4) :
    ((stepIndex k j).extractLsb' 0 2).toFin = Fin.ofNat 4 j.toNat := by
  cases k <;> revert j <;> decide

@[simp] theorem rotAmount_stepIndex (k : StepKind) (j : BitVec 4) :
    rotAmount (stepIndex k j) = (rotRow k)[Fin.ofNat 4 j.toNat] := by
  simp only [rotAmount, stepKind_stepIndex, stepIndex_mod_four]

theorem msgIndex_stepIndex_eq_iff (r : StepKind) (j : BitVec 4) (k : Fin 16) :
    msgIndex (stepIndex r j) = k ↔ j = BitVec.ofNat 4 (posnOfMsg r k.val) := by
  have hj := j.isLt
  have hk := k.isLt
  rw [msgIndex_stepIndex, Fin.ext_iff, BitVec.toNat_inj.symm, Fin.val_ofNat, BitVec.toNat_ofNat]
  cases r <;> simp only [msgPosn, posnOfMsg] <;> omega

/-- Settles O28: the table row by row, and the position of each word by the inverse of g. -/
theorem stepTablesAreTheSpecs : Obligations.StepTablesAreTheSpecs := by
  unfold Obligations.StepTablesAreTheSpecs
  refine ⟨by decide, fun r k => ⟨BitVec.ofNat 4 (posnOfMsg r k.val), ?_, fun j' h => ?_⟩⟩
  · exact (msgIndex_stepIndex_eq_iff r _ k).mpr rfl
  · exact (msgIndex_stepIndex_eq_iff r j' k).mp h

/-! ## The datapath (R90 to R96) -/

theorem rotl_eq_rotateLeft (x : Word) {s : Nat} (hs : s ≤ 31) : rotl x s = x.rotateLeft s := by
  rw [rotl, BitVec.rotateLeft_def, Nat.mod_eq_of_lt (by omega)]
  split
  case isTrue h => simp [h, BitVec.ushiftRight_eq_zero]
  case isFalse => rfl

theorem rotl_getLsbD (x : Word) {s k : Nat} (hs : s ≤ 31) (hk : k < 32) :
    (rotl x s).getLsbD k = x.getLsbD ((k + 32 - s) % 32) := by
  rw [rotl_eq_rotateLeft x hs, BitVec.getLsbD_rotateLeft, Nat.mod_eq_of_lt (show s < 32 by omega)]
  by_cases h : k < s
  · rw [decide_eq_true h, cond_true, show (k + 32 - s) % 32 = 32 - s + k by omega]
  · rw [decide_eq_false h, cond_false, decide_eq_true hk, Bool.true_and, show (k + 32 - s) % 32 = k - s by omega]

theorem rotAmount_range (i : BitVec 6) : 4 ≤ rotAmount i ∧ rotAmount i ≤ 23 := by
  revert i; decide

/-- Settles O25. -/
theorem rotlMovesEveryBit : Obligations.RotlMovesEveryBit :=
  ⟨fun x _ _ hs hk => rotl_getLsbD x hs hk, fun _ => rfl, rotAmount_range⟩

theorem stepKind_eq_iff (i : BitVec 6) (r : StepKind) :
    stepKind i = r ↔ i.extractLsb' 4 2 = (stepIndex r 0).extractLsb' 4 2 := by
  cases r <;> revert i <;> decide

theorem roundF_getLsbD (b c d : Word) {k : Nat} (hk : k < 32) :
    (roundF b c d).getLsbD k = if b.getLsbD k then c.getLsbD k else d.getLsbD k := by
  simp only [roundF, BitVec.getLsbD_or, BitVec.getLsbD_and, BitVec.getLsbD_not, hk, decide_true, Bool.true_and]
  cases b.getLsbD k <;> simp

theorem roundG_getLsbD (b c d : Word) {k : Nat} (hk : k < 32) :
    (roundG b c d).getLsbD k = if d.getLsbD k then b.getLsbD k else c.getLsbD k := by
  simp only [roundG, BitVec.getLsbD_or, BitVec.getLsbD_and, BitVec.getLsbD_not, hk, decide_true, Bool.true_and]
  cases d.getLsbD k <;> simp

theorem roundH_getLsbD (b c d : Word) (k : Nat) :
    (roundH b c d).getLsbD k = (b.getLsbD k ^^ c.getLsbD k ^^ d.getLsbD k) := by
  rw [roundH, BitVec.getLsbD_xor, BitVec.getLsbD_xor]

theorem roundI_getLsbD (b c d : Word) {k : Nat} (hk : k < 32) :
    (roundI b c d).getLsbD k = (c.getLsbD k ^^ (b.getLsbD k || !d.getLsbD k)) := by
  rw [roundI, BitVec.getLsbD_xor, BitVec.getLsbD_or, BitVec.getLsbD_not, decide_eq_true hk, Bool.true_and]

/-- Settles O26. -/
theorem roundFunctionsWorkBitByBit : Obligations.RoundFunctionsWorkBitByBit :=
  ⟨fun i => ⟨stepKind_eq_iff i .F, stepKind_eq_iff i .G, stepKind_eq_iff i .H, stepKind_eq_iff i .I⟩,
    fun b c d k hk => ⟨roundF_getLsbD b c d hk, roundG_getLsbD b c d hk, roundH_getLsbD b c d k,
      roundI_getLsbD b c d hk⟩⟩

/-- R12: byte j of a word put together from four bytes. -/
theorem byteLane_le32 (b : Fin 4 → Byte) (j : Fin 4) : byteLane (le32 (b 0) (b 1) (b 2) (b 3)) j.val = b j := by
  have hlanes := le32bytes_of_le32 (b 0) (b 1) (b 2) (b 3)
  simp only [le32bytes, List.cons.injEq] at hlanes
  obtain ⟨h0, h1, h2, h3, -⟩ := hlanes
  fin_cases j
  · exact h0
  · exact h1
  · exact h2
  · exact h3

/-- Settles O27. -/
theorem messageWordsAreLittleEndian : Obligations.MessageWordsAreLittleEndian := by
  unfold Obligations.MessageWordsAreLittleEndian
  intro blk k j
  rw [parseBlock, Fin.getElem_fin, Vector.getElem_ofFn]
  exact byteLane_le32 (fun j => blk[4 * k.val + j.val]) j

/-! ## The meaning of a step (R101 to R104) -/

/-- R101 to R104: what the four step kinds share. -/
theorem exec_instr (k : StepKind) (j : BitVec 4) (s : State) :
    exec (k.instr j) s = .next { s with work := s.work.advance (roundOf k) (stepIndex k j) } := by
  cases k <;> rfl

/-- A step with its tables read at position j of the round. -/
theorem exec_instr_tables (k : StepKind) (j : BitVec 4) (s : State) :
    exec (k.instr j) s = .next { s with
      work := {
        a := s.work.d
        b := s.work.b + rotl (s.work.a + roundOf k s.work.b s.work.c s.work.d + (constRow k)[j.toFin]
          + s.work.x[Fin.ofNat 16 (msgPosn k j.toNat)]) (rotRow k)[Fin.ofNat 4 j.toNat]
        c := s.work.b
        d := s.work.c
        step := s.work.step + 1
        x := s.work.x } } := by
  simp only [exec_instr, Work.advance, constK_stepIndex, msgIndex_stepIndex, rotAmount_stepIndex]

/-- Settles O29. -/
theorem stepFUpdatesTheWorkingRegisters : Obligations.StepFUpdatesTheWorkingRegisters :=
  fun s j => exec_instr_tables .F j s

/-- Settles O30. -/
theorem stepGUpdatesTheWorkingRegisters : Obligations.StepGUpdatesTheWorkingRegisters :=
  fun s j => exec_instr_tables .G j s

/-- Settles O31. -/
theorem stepHUpdatesTheWorkingRegisters : Obligations.StepHUpdatesTheWorkingRegisters :=
  fun s j => exec_instr_tables .H j s

/-- Settles O32. -/
theorem stepIUpdatesTheWorkingRegisters : Obligations.StepIUpdatesTheWorkingRegisters :=
  fun s j => exec_instr_tables .I j s

/-! ## COMPRESS is the pure function of R105 -/

/-- The working registers a, b, c, d of the compressor. -/
def Work.regs (w : Work) : Chain := { a := w.a, b := w.b, c := w.c, d := w.d }

theorem stepKind_ofNat {i : Nat} (hi : i < 64) :
    stepKind (BitVec.ofNat 6 i) = if i < 16 then .F else if i < 32 then .G else if i < 48 then .H else .I := by
  have hall : ∀ i : Fin 64, stepKind (BitVec.ofNat 6 i.val) =
    if i.val < 16 then .F else if i.val < 32 then .G else if i.val < 48 then .H else .I := by decide
  exact hall ⟨i, hi⟩

/-- R95: the round i div 16 is the kind that STEP selects. -/
theorem refRound_eq {i : Nat} (hi : i < 64) : refRound i = roundOf (stepKind (BitVec.ofNat 6 i)) := by
  rw [stepKind_ofNat hi, refRound, apply_ite roundOf, apply_ite roundOf, apply_ite roundOf]
  rfl

/-- One tick is the shared step at STEP, with the round function that STEP selects. -/
theorem Work.tick_eq_advance (w : Work) : w.tick = w.advance (roundOf (stepKind w.step)) w.step := by
  have hi := stepIndex_fields w.step
  rw [Work.tick]
  cases hk : stepKind w.step <;> rw [hk] at hi <;> exact congrArg (w.advance _) hi

/-- The loop's body for i is the tick at STEP = i. -/
theorem Work.tick_regs {w : Work} {i : Nat} (hi : i < 64) (hw : w.step = BitVec.ofNat 6 i) :
    w.tick.regs = refStep w.x w.regs i := by
  rw [Work.tick_eq_advance, hw, ← refRound_eq hi]
  rfl

theorem refSteps_succ (n : Nat) (h : Chain) (blk : Vector Byte 64) :
    refSteps (n + 1) h blk = refStep (parseBlock blk) (refSteps n h blk) n := by
  rw [refSteps, List.range_succ, List.foldl_concat]
  rfl

/-- n ticks from the start of a COMPRESS are n rounds of the loop. -/
theorem Work.ticks_start_regs (h : Chain) (blk : Vector Byte 64) {n : Nat} (hn : n ≤ 64) :
    ((h.start blk).ticks n).regs = refSteps n h blk := by
  induction n with
  | zero => rfl
  | succ n ih =>
    have hstep : ((h.start blk).ticks n).step = BitVec.ofNat 6 n := by
      rw [Work.ticks_step]
      exact BitVec.zero_add _
    rw [Work.ticks_succ, Work.tick_regs hn hstep, Work.ticks_x, ih (Nat.le_of_succ_le hn), refSteps_succ]
    rfl

theorem feed_ticks_eq_refCompress (h : Chain) (blk : Vector Byte 64) :
    h.feed ((h.start blk).ticks 64) = refCompress h blk :=
  congrArg h.plus (Work.ticks_start_regs h blk le_rfl)

/-- Settles O33. -/
theorem compressRefinesThePureFunction : Obligations.CompressRefinesThePureFunction := by
  unfold Obligations.CompressRefinesThePureFunction
  intro s blk
  rw [← feed_ticks_eq_refCompress, State.compress_work]
  rfl

/-! ## The named-variable form (R106) -/

/-- The four named variables hold the working registers, register k in slot (k - i) mod 4. -/
structure NamedHold (i : Nat) (v : Vector Word 4) (w : Chain) : Prop where
  a : v[namedSlot i 0] = w.a
  b : v[namedSlot i 1] = w.b
  c : v[namedSlot i 2] = w.c
  d : v[namedSlot i 3] = w.d

/-- Where the shift-register form moves a register on, the named-variable form renames it. -/
theorem getElem_namedSlot_succ (v : Vector Word 4) (i k : Nat) : v[namedSlot (i + 1) (k + 1)] = v[namedSlot i k] := by
  have hslot : namedSlot (i + 1) (k + 1) = namedSlot i k :=
    Fin.ext (by simp only [namedSlot, Fin.val_ofNat]; omega)
  exact congrArg v.get hslot

/-- The name of d becomes the name of a. -/
theorem getElem_namedSlot_succ_zero (v : Vector Word 4) (i : Nat) : v[namedSlot (i + 1) 0] = v[namedSlot i 3] := by
  have hslot : namedSlot (i + 1) 0 = namedSlot i 3 :=
    Fin.ext (by simp only [namedSlot, Fin.val_ofNat]; omega)
  exact congrArg v.get hslot

/-- The named variables that step i does not update. -/
theorem getElem_set_namedSlot (v : Vector Word 4) (y : Word) (i : Nat) {k : Nat} (h0 : k ≠ 0) (h4 : k < 4) :
    (v.set (namedSlot i 0).val y)[namedSlot i k] = v[namedSlot i k] := by
  refine Vector.getElem_set_ne _ _ ?_
  simp only [namedSlot, Fin.val_ofNat]
  omega

theorem NamedHold.namedStep_eq {i : Nat} {v : Vector Word 4} {w : Chain} (h : NamedHold i v w) (x : Vector Word 16) :
    namedStep x v i = v.set (namedSlot i 0).val (refStep x w i).b := by
  simp only [namedStep, h.a, h.b, h.c, h.d]
  rfl

theorem NamedHold.step {i : Nat} {v : Vector Word 4} {w : Chain} (h : NamedHold i v w) (x : Vector Word 16) :
    NamedHold (i + 1) (namedStep x v i) (refStep x w i) := by
  rw [h.namedStep_eq x]
  exact {
    a := calc
      _ = _ := getElem_namedSlot_succ_zero _ i
      _ = _ := getElem_set_namedSlot v _ i (by decide) (by decide)
      _ = w.d := h.d
    b := calc
      _ = _ := getElem_namedSlot_succ _ i 0
      _ = (refStep x w i).b := Vector.getElem_set_self _
    c := calc
      _ = _ := getElem_namedSlot_succ _ i 1
      _ = _ := getElem_set_namedSlot v _ i (by decide) (by decide)
      _ = w.b := h.b
    d := calc
      _ = _ := getElem_namedSlot_succ _ i 2
      _ = _ := getElem_set_namedSlot v _ i (by decide) (by decide)
      _ = w.c := h.c }

theorem namedSteps_succ (n : Nat) (h : Chain) (blk : Vector Byte 64) :
    namedSteps (n + 1) h blk = namedStep (parseBlock blk) (namedSteps n h blk) n := by
  rw [namedSteps, List.range_succ, List.foldl_concat]
  rfl

theorem namedHold_steps (h : Chain) (blk : Vector Byte 64) (n : Nat) :
    NamedHold n (namedSteps n h blk) (refSteps n h blk) := by
  induction n with
  | zero => exact ⟨rfl, rfl, rfl, rfl⟩
  | succ n ih =>
    rw [refSteps_succ, namedSteps_succ]
    exact ih.step (parseBlock blk)

/-- After 64 steps, a multiple of four, each name is back at its own register. -/
theorem NamedHold.eq_registers {v : Vector Word 4} {w : Chain} (h : NamedHold 64 v w) : v = #v[w.a, w.b, w.c, w.d] := by
  refine Vector.ext fun k hk => ?_
  interval_cases k
  · exact h.a
  · exact h.b
  · exact h.c
  · exact h.d

/-- Settles O35. -/
theorem namedVariableFormIsTheSameComputation : Obligations.NamedVariableFormIsTheSameComputation :=
  fun h blk => (namedHold_steps h blk 64).eq_registers

end Sys2Proof.Machine
end

section
/-! PROOFS. The two phases of a command: the checks of its acceptance in their order (R120, R169), and its execution by
the engine's step (R121), with INIT (R122) and NOP (R125) as a whole. -/

namespace Sys2Proof.Machine

/-! ## The words with legal fields (R73) -/

theorem not_illegalFields_iff {v : Word} :
    ¬IllegalFields v ↔ reservedClear v = true ∧ (opField v).toNat < 4 ∧ (opField v ≠ 2#4 → lenField v = 0#7) := by
  simp only [IllegalFields, not_or, Bool.not_eq_false, not_le, not_and_not_right]

/-- R73's conditions as R120's statement writes them, the two reserved fields apart. -/
theorem illegalFields_iff {v : Word} :
    IllegalFields v ↔ v.extractLsb' 4 4 ≠ 0 ∨ v.extractLsb' 15 17 ≠ 0 ∨ 4 ≤ (v.extractLsb' 0 4).toNat ∨
      (v.extractLsb' 0 4 ≠ 2 ∧ v.extractLsb' 8 7 ≠ 0) := by
  simp [IllegalFields, reservedClear, opField, lenField, imp_iff_not_or, or_assoc]

/-- A word with legal fields whose OP is not ABSORB's has no bit set beside OP. -/
theorem eq_commandWord_of_legal {v : Word} {op : BitVec 4} (h : ¬IllegalFields v) (hop : opField v = op)
    (hne : op ≠ 2#4) : v = commandWord op 0 := by
  obtain ⟨hres, -, hlen⟩ := not_illegalFields_iff.mp h
  exact eq_commandWord_iff.mpr ⟨hres, hop, hlen (hop ▸ hne)⟩

theorem decodeCommand_of_op_absorb {v : Word} (h : ¬IllegalFields v) (hop : opField v = 2#4) :
    decodeCommand v = if 64 < (lenField v).toNat then .badLen else .absorb (lenField v) := by
  have hv : v = commandWord 2 (lenField v) := eq_commandWord_iff.mpr ⟨(not_illegalFields_iff.mp h).1, hop, rfl⟩
  rw [← decodeCommand_absorb, ← hv]

/-- The words of ABSORB and FINAL are those with legal fields and OP at least 2. -/
theorem decodeCommand_of_op_ge_two {v : Word} (h : ¬IllegalFields v) (hop : 2 ≤ (opField v).toNat) :
    decodeCommand v = .badLen ∨ (∃ len, decodeCommand v = .absorb len) ∨ decodeCommand v = .final := by
  have hlt := (not_illegalFields_iff.mp h).2.1
  by_cases h2 : opField v = 2#4
  · rw [decodeCommand_of_op_absorb h h2]
    split
    · exact .inl rfl
    · exact .inr (.inl ⟨_, rfl⟩)
  · have h3 : opField v = 3#4 := by
      simp only [← BitVec.toNat_inj, BitVec.toNat_ofNat] at h2 ⊢
      omega
    rw [eq_commandWord_of_legal h h3 (by decide)]
    exact .inr (.inr rfl)

/-! ## Acceptance, by what the word decodes to (R120) -/

theorem State.accept_of_busy {s : State} (hb : s.busy = true) (v : Word) : s.accept v = s.raiseError .busyWrite := by
  rw [State.accept, if_pos hb]

theorem State.accept_of_nop {s : State} {v : Word} (hb : s.busy = false) (hd : decodeCommand v = .nop) :
    s.accept v = s.setPending .nop := by
  rw [State.accept, if_neg (by simp [hb]), hd]

theorem State.accept_of_init {s : State} {v : Word} (hb : s.busy = false) (hd : decodeCommand v = .init) :
    s.accept v = s.setPending .init := by
  rw [State.accept, if_neg (by simp [hb]), hd]

theorem State.accept_of_absorb {s : State} {v : Word} {len : BitVec 7} (hb : s.busy = false)
    (hd : decodeCommand v = .absorb len) : s.accept v = s.ifFresh (s.acceptAbsorb len) := by
  rw [State.accept, if_neg (by simp [hb]), hd]

theorem State.accept_of_final {s : State} {v : Word} (hb : s.busy = false) (hd : decodeCommand v = .final) :
    s.accept v = s.ifFresh (s.setPending .final) := by
  rw [State.accept, if_neg (by simp [hb]), hd]

theorem State.ifFresh_of_err {s : State} (he : s.err = true) (t : State) : s.ifFresh t = s := if_pos he

theorem State.ifFresh_of_done {s : State} (he : s.err = false) (hd : s.done = true) (t : State) :
    s.ifFresh t = s.raiseError .seq := by
  rw [State.ifFresh, if_neg (by simp [he]), if_pos hd]

/-- The commands that R169 checks against ERR and DONE are those with OP at least 2. -/
theorem State.accept_of_op_ge_two {s : State} {v : Word} (hb : s.busy = false) (h : ¬IllegalFields v)
    (hop : 2 ≤ (opField v).toNat) : ∃ onward, s.accept v = s.ifFresh onward := by
  rcases decodeCommand_of_op_ge_two h hop with hd | ⟨len, hd⟩ | hd
  · exact ⟨_, State.accept_of_badLen hb hd⟩
  · exact ⟨_, State.accept_of_absorb hb hd⟩
  · exact ⟨_, State.accept_of_final hb hd⟩

/-- An ABSORB of a legal length on a fresh context goes on to the check against MAX_BYTES. -/
theorem State.accept_of_legal_absorb {s : State} {v : Word} (hb : s.busy = false) (h : ¬IllegalFields v)
    (hop : opField v = 2#4) (he : s.err = false) (hd : s.done = false) (hle : (lenField v).toNat ≤ 64) :
    s.accept v = s.acceptAbsorb (lenField v) := by
  have hdec := (decodeCommand_of_op_absorb h hop).trans (if_neg (Nat.not_lt.mpr hle))
  rw [State.accept_of_absorb hb hdec, State.ifFresh_of_fresh he hd]

/-- Settles O36: clause by clause, from the word's fields to what it decodes to, and from there by the equation of
acceptance. -/
theorem acceptanceChecksInTheOrderOfTheRule : Obligations.AcceptanceChecksInTheOrderOfTheRule := by
  unfold Obligations.AcceptanceChecksInTheOrderOfTheRule
  intro s v raise op len illegal
  have hill : illegal ↔ IllegalFields v := illegalFields_iff.symm
  rw [hill]
  refine ⟨rfl, fun hb => State.accept_of_busy hb v, fun hb h => ?illegal, fun hb h hop => ?nop, fun hb h hop => ?init,
    fun hb h hop he => ?poisoned, fun hb h hop he hd => ?done, fun hb h hop he hd hlen => ?badLen,
    fun hb h hop he hd hlen hmax => ?limit, fun hb h hop he hd hlen hmax => ?absorb, fun hb h hop he hd => ?final⟩
  case illegal => exact State.accept_of_illegal hb (decodeCommand_of_illegalFields h)
  case nop =>
    obtain rfl := eq_commandWord_of_legal h hop (by decide)
    exact State.accept_of_nop hb rfl
  case init =>
    obtain rfl := eq_commandWord_of_legal h hop (by decide)
    exact State.accept_of_init hb rfl
  case poisoned =>
    obtain ⟨onward, ha⟩ := State.accept_of_op_ge_two hb h hop
    rw [ha, State.ifFresh_of_err he]
  case done =>
    obtain ⟨onward, ha⟩ := State.accept_of_op_ge_two hb h hop
    rw [ha, State.ifFresh_of_done he hd]
    rfl
  case badLen =>
    rw [State.accept_of_badLen hb ((decodeCommand_of_op_absorb h hop).trans (if_pos hlen)), State.ifFresh_of_fresh he hd]
    rfl
  case limit => exact (State.accept_of_legal_absorb hb h hop he hd hlen).trans (if_pos hmax)
  case absorb => exact (State.accept_of_legal_absorb hb h hop he hd hlen).trans (if_neg (Nat.not_lt.mpr hmax))
  case final =>
    obtain rfl := eq_commandWord_of_legal h hop (by decide)
    rw [State.accept_of_final hb rfl, State.ifFresh_of_fresh he hd]
    rfl

/-! ## From acceptance to execution -/

/-- What acceptance puts in PEND is the command that the word decodes to, with BUSY = 1. -/
theorem State.accept_pend {s : State} {v : Word} {p : Pending} (hp : s.pend = none) (h : (s.accept v).pend = some p) :
    (s.accept v).busy = true ∧ (decodeCommand v).toInstr = .ok p.instr := by
  rcases s.accept_cases v with ⟨ha, -⟩ | ⟨c, ha⟩ | ⟨ha, -, hd⟩ | ⟨ha, -, hd⟩ | ⟨ha, -, hd, -⟩ | ⟨len, ha, -, hd, -⟩
  case inl | inr.inl => simp [ha, hp] at h
  all_goals
    rw [ha] at h ⊢
    cases h
    exact ⟨rfl, by rw [hd]; rfl⟩

/-- Settles O8. -/
theorem acceptedCommandIsTheOneExecuted : Obligations.AcceptedCommandIsTheOneExecuted := by
  unfold Obligations.AcceptedCommandIsTheOneExecuted
  intro s v rest p hc hs hb hp hh hpend
  obtain ⟨hbusy, hinstr⟩ := State.accept_pend hp hpend
  refine ⟨?_, hinstr, ?_⟩
  · rw [step_of_idle hc hs hb, hostTurn_cons hh]
    rfl
  · have hturn := step_of_pending (s := { s.accept v with host := rest }) ((s.accept_compressing v).trans hc)
      ((s.accept_sched v).trans hs) hbusy
    exact hturn.trans (engineTurn_of_pend hbusy hpend)

/-- Settles O5. -/
theorem engineStepExecutesThePendingCommand : Obligations.EngineStepExecutesThePendingCommand := by
  unfold Obligations.EngineStepExecutesThePendingCommand
  refine ⟨fun s rest p hc hb hp => ⟨fun hs => ?_, fun hs => ?_⟩, fun s rest hc hb hs => ?_,
    fun s => ⟨rfl, rfl, fun len bytes hp hl => execAbsorb_of_pend hp hl, rfl⟩⟩
  · rw [step_of_engineTurn hc hs]
    exact engineTurn_of_pend hb hp
  · rw [step_of_pending hc hs hb, engineTurn_of_pend hb hp]
  · rw [step_of_engineTurn hc hs]
    exact if_neg (by simp [hb])

/-- Settles O37: the only legal word with INIT's OP is INIT's own. -/
theorem initStartsAFreshContext : Obligations.InitStartsAFreshContext := by
  unfold Obligations.InitStartsAFreshContext
  refine ⟨fun s hb => State.accept_of_init hb rfl, fun s hb => State.accept_of_busy hb _, fun s v hb hop hne => ?_,
    fun s => rfl⟩
  have hill : IllegalFields v := by
    by_contra hlegal
    exact hne (eq_commandWord_of_legal hlegal hop (by decide))
  exact State.accept_of_illegal hb (decodeCommand_of_illegalFields hill)

/-- Pending and its end undo each other on an idle engine. -/
theorem State.retire_setPending {s : State} (hb : s.busy = false) (hp : s.pend = none) (p : Pending) :
    (s.setPending p).retire = s := by
  ext1 <;> simp [hb, hp]

/-- Settles O38. -/
theorem nopHasNoEffect : Obligations.NopHasNoEffect := by
  unfold Obligations.NopHasNoEffect
  refine ⟨fun s hb => State.accept_of_nop hb rfl, fun s hb => State.accept_of_busy hb _, fun s => rfl, fun s hb hp => ?_⟩
  rw [State.accept_of_nop hb rfl]
  exact congrArg _ (State.retire_setPending hb hp .nop)

end Sys2Proof.Machine
end

section
/-! PROOFS. UPDATE is the compression of a stream of blocks (R124, R128): what it leaves of the chaining state, BUF, POS
and COUNT; from that ABSORB (R123) and the independence of how the bytes are cut into chunks (R127). -/

namespace Sys2Proof.Machine

/-! ## The occupied bytes of BUF (R24) -/

@[simp] theorem State.tail_length (s : State) : s.tail.length = s.pos.toNat := by
  have := s.pos.isLt
  rw [State.tail, List.length_take, Vector.length_toList]
  omega

@[simp] theorem State.retire_tail (s : State) : s.retire.tail = s.tail := rfl

/-- A chunk that fits in BUF stands behind the occupied bytes. -/
theorem State.take_fillBuf (s : State) {chunk : List Byte} (h : s.pos.toNat + chunk.length ≤ 64) :
    (fillBuf s.buf s.pos.toNat chunk).toList.take (s.pos.toNat + chunk.length) = s.tail ++ chunk := by
  apply List.ext_getElem
  · simp [h]
  intro i hi _
  simp only [List.length_take, Vector.length_toList] at hi
  rw [List.getElem_take, Vector.getElem_toList, fillBuf_getElem]
  split
  · rw [List.getElem_append_left (by simpa)]
    simp [State.tail]
  · rw [List.getElem_append_right (by simp; omega), List.getElem?_eq_getElem (by omega)]
    simp

/-- After a compression BUF begins with the bytes that completed no block. -/
theorem take_tailBuf {tail : List Byte} (h : tail.length ≤ 64) (draws : Nat) :
    (tailBuf tail draws).toList.take tail.length = tail := by
  apply List.ext_getElem
  · simp [h]
  intro i _ hi
  rw [List.getElem_take, Vector.getElem_toList, tailBuf_getElem, List.getElem?_eq_getElem hi, Option.getD_some]

/-! ## Blocks of a byte string (R128) -/

theorem blockOf_eq_of_toList {l : List Byte} {blk : Vector Byte 64} (h : blk.toList = l.take 64) : blockOf l = blk := by
  ext1 i hi
  rw [blockOf_getElem, List.getD_eq_getElem?_getD, ← List.getElem?_take_of_lt hi, ← h, Vector.getElem?_toList,
    Vector.getElem?_eq_getElem hi, Option.getD_some]

theorem blockOf_append {l : List Byte} (h : 64 ≤ l.length) (more : List Byte) : blockOf (l ++ more) = blockOf l := by
  ext1 i hi
  rw [blockOf_getElem, blockOf_getElem, List.getD_append _ _ _ _ (by omega)]

/-- `refBlocks` on one block more. Its own equation lemma would have the kernel unfold the 64 steps of `refCompress`, so
the recursion is unfolded with COMPRESS held as a variable. -/
theorem refBlocks_succ (n : Nat) (l : List Byte) (c : Chain) :
    refBlocks (n + 1) l c = refBlocks n (l.drop 64) (refCompress c (blockOf l)) := by
  delta refBlocks refBlocks._f
  generalize refCompress = compress
  rfl

/-- Bytes behind the first n blocks do not matter to them. -/
theorem refBlocks_append {n : Nat} {l : List Byte} (h : 64 * n ≤ l.length) (more : List Byte) (c : Chain) :
    refBlocks n (l ++ more) c = refBlocks n l c := by
  induction n generalizing l c with
  | zero => rfl
  | succ n ih =>
    rw [refBlocks_succ, refBlocks_succ, List.drop_append_of_le_length (by omega), blockOf_append (by omega),
      ih (by rw [List.length_drop]; omega)]

theorem refBlocks_add (m n : Nat) (l : List Byte) (c : Chain) :
    refBlocks (m + n) l c = refBlocks n (l.drop (64 * m)) (refBlocks m l c) := by
  induction m generalizing l c with
  | zero => rw [Nat.zero_add]; rfl
  | succ m ih => rw [Nat.succ_add, refBlocks_succ, refBlocks_succ, ih, List.drop_drop, Nat.mul_succ, Nat.add_comm 64]

/-- The slices that the engine compresses are blocks of the byte string. -/
theorem State.compressSlices_chain (n : Nat) (bytes : List Byte) (s : State) :
    (s.compressSlices n bytes).chain = refBlocks n bytes s.chain := by
  induction n generalizing bytes s with
  | zero => rfl
  | succ n ih => rw [State.compressSlices, ih, State.compress_chain, feed_ticks_eq_refCompress, refBlocks_succ]

/-! ## UPDATE (R124), by the stream of the occupied bytes and the chunk -/

/-- What is behind the stream's first block is what the chunk holds beyond the room in BUF. -/
theorem State.drop_stream (s : State) (chunk : List Byte) :
    (s.tail ++ chunk).drop 64 = chunk.drop (64 - s.pos.toNat) := by
  have htail : s.tail.length ≤ 64 := s.tail_length ▸ s.pos.isLt.le
  rw [List.drop_append, List.drop_eq_nil_of_le htail, State.tail_length, List.nil_append]

/-- A chunk that completes BUF leaves the stream's first block in it. -/
theorem State.fillBuf_eq_blockOf (s : State) {chunk : List Byte} (h : 64 ≤ s.pos.toNat + chunk.length) :
    fillBuf s.buf s.pos.toNat (chunk.take (64 - s.pos.toNat)) = blockOf (s.tail ++ chunk) := by
  have hpos := s.pos.isLt
  have hfull : s.pos.toNat + (chunk.take (64 - s.pos.toNat)).length = 64 := by rw [List.length_take]; omega
  refine (blockOf_eq_of_toList ?_).symm
  calc (fillBuf s.buf s.pos.toNat (chunk.take (64 - s.pos.toNat))).toList
    _ = (fillBuf s.buf s.pos.toNat (chunk.take (64 - s.pos.toNat))).toList.take 64 := by
      rw [List.take_of_length_le (Vector.length_toList).le]
    _ = s.tail ++ chunk.take (64 - s.pos.toNat) := by rw [← s.take_fillBuf hfull.le, hfull]
    _ = (s.tail ++ chunk).take 64 := by
      rw [List.take_append, State.tail_length, List.take_of_length_le (i := 64) (by rw [State.tail_length]; omega)]

/-- The stream's blocks are the one that BUF completes and the whole slices of what is behind it. -/
theorem State.blocks_eq_slices_add_one (s : State) {chunk : List Byte} (h : 64 ≤ s.pos.toNat + chunk.length) :
    (s.pos.toNat + chunk.length) / 64 = (chunk.drop (64 - s.pos.toNat)).length / 64 + 1 := by
  rw [List.length_drop]
  omega

theorem State.update_chain (s : State) (chunk : List Byte) :
    (s.update chunk).chain = refBlocks ((s.pos.toNat + chunk.length) / 64) (s.tail ++ chunk) s.chain := by
  rcases Nat.lt_or_ge (s.pos.toNat + chunk.length) 64 with hshort | hfull
  · rw [(s.update_chain_work_of_short chunk hshort).1, Nat.div_eq_of_lt hshort]
    rfl
  · rw [State.update_full (by omega), s.blocks_eq_slices_add_one hfull, refBlocks_succ, s.drop_stream chunk]
    simp only [State.updateFull, State.compressSlices_chain, State.compress_chain, feed_ticks_eq_refCompress,
      s.fillBuf_eq_blockOf hfull]

theorem State.update_tail (s : State) (chunk : List Byte) :
    (s.update chunk).tail = (s.tail ++ chunk).drop (64 * ((s.pos.toNat + chunk.length) / 64)) := by
  rcases Nat.lt_or_ge (s.pos.toNat + chunk.length) 64 with hshort | hfull
  · rw [Nat.div_eq_of_lt hshort, Nat.mul_zero, List.drop_zero, ← s.take_fillBuf hshort.le, State.tail,
      State.update_pos, Nat.mod_eq_of_lt hshort, State.update_short (by omega)]
    rfl
  · rw [s.blocks_eq_slices_add_one hfull, Nat.mul_succ, Nat.add_comm, ← List.drop_drop, s.drop_stream chunk,
      State.update_full (by omega), State.tail]
    simp only [State.updateFull, BitVec.toNat_ofNat]
    generalize chunk.drop (64 - s.pos.toNat) = rest
    have hlt : (rest.drop (64 * (rest.length / 64))).length < 2 ^ 6 := by rw [List.length_drop]; omega
    rw [Nat.mod_eq_of_lt hlt, take_tailBuf hlt.le]

/-- Settles O41: `State.update_chain`, `State.update_tail` and the frame of UPDATE, field by field. -/
theorem updateCompressesTheStreamsBlocks : Obligations.UpdateCompressesTheStreamsBlocks := by
  unfold Obligations.UpdateCompressesTheStreamsBlocks
  intro s chunk
  refine ⟨s.update_chain chunk, s.update_tail chunk, s.update_pos chunk, s.update_count chunk, ?_⟩
  ext1 <;> simp

/-! ## ABSORB (R123) -/

/-- Settles O39: with at most 64 bytes UPDATE completes at most one block. -/
theorem absorbExecutes : Obligations.AbsorbExecutes := by
  unfold Obligations.AbsorbExecutes
  intro s len bytes hle hp hl
  refine ⟨_, execAbsorb_of_pend hp hl, ?chain, ?tail, ?pos, ?count, rfl, rfl, by simp, by simp, by simp⟩
  case chain =>
    rw [State.retire_chain, State.update_chain, hl]
    split
    · rw [Nat.div_eq_of_lt ‹_›]
      rfl
    · rw [show (s.pos.toNat + len.toNat) / 64 = 1 by omega, refBlocks_succ]
      rfl
  case tail =>
    rw [State.retire_tail, State.update_tail, hl]
    split
    · rw [Nat.div_eq_of_lt ‹_›, Nat.mul_zero, List.drop_zero]
    · rw [show (s.pos.toNat + len.toNat) / 64 = 1 by omega]
  case pos => rw [State.retire_pos, State.update_pos, hl]
  case count => rw [State.retire_count, State.update_count, hl, BitVec.ofNat_toNat]

theorem State.update_nil (s : State) : s.update [] = s := by
  have hbuf : fillBuf s.buf s.pos.toNat [] = s.buf := by
    ext1 i hi
    simp
  have hroom : ([] : List Byte).length < 64 - s.pos.toNat := Nat.sub_pos_of_lt s.pos.isLt
  rw [State.update_short hroom, State.updateShort, hbuf]
  simp

/-- Settles O40. -/
theorem emptyAbsorbChangesNothing : Obligations.EmptyAbsorbChangesNothing := by
  unfold Obligations.EmptyAbsorbChangesNothing
  intro s hp
  have hexec : exec (.absorb 0) s = .next (s.update []).retire := execAbsorb_of_pend hp rfl
  rw [hexec, State.update_nil]
  rfl

/-! ## Chunk independence (R127) -/

/-- The two states have taken in the same stream: they agree in the chaining state, POS, COUNT and the occupied bytes. -/
structure SameStream (s t : State) : Prop where
  chain : s.chain = t.chain
  pos : s.pos = t.pos
  count : s.count = t.count
  tail : s.tail = t.tail

theorem SameStream.refl (s : State) : SameStream s s := ⟨rfl, rfl, rfl, rfl⟩

theorem SameStream.trans {s t u : State} (h : SameStream s t) (h' : SameStream t u) : SameStream s u :=
  ⟨h.chain.trans h'.chain, h.pos.trans h'.pos, h.count.trans h'.count, h.tail.trans h'.tail⟩

/-- The blocks of two chunks in turn are the blocks of both at once. -/
theorem blocks_add_blocks (pos m n : Nat) : (pos + m) / 64 + ((pos + m) % 64 + n) / 64 = (pos + (m + n)) / 64 := by
  omega

theorem State.update_append (s : State) (a b : List Byte) :
    SameStream ((s.update a).update b) (s.update (a ++ b)) := by
  have hwhole : 64 * ((s.pos.toNat + a.length) / 64) ≤ (s.tail ++ a).length := by
    rw [List.length_append, State.tail_length]
    exact Nat.mul_div_le _ _
  have hstream : (s.update a).tail ++ b = (s.tail ++ (a ++ b)).drop (64 * ((s.pos.toNat + a.length) / 64)) := by
    rw [State.update_tail, ← List.append_assoc, List.drop_append_of_le_length hwhole]
  constructor
  case chain =>
    rw [State.update_chain, hstream, State.update_chain, ← refBlocks_append hwhole b, List.append_assoc, ← refBlocks_add,
      State.update_pos, blocks_add_blocks, State.update_chain, List.length_append]
  case pos =>
    apply BitVec.eq_of_toNat_eq
    rw [State.update_pos, State.update_pos, State.update_pos, List.length_append, Nat.mod_add_mod, Nat.add_assoc]
  case count => simp [BitVec.add_assoc, BitVec.ofNat_add]
  case tail =>
    rw [State.update_tail, hstream, List.drop_drop, ← Nat.mul_add, State.update_pos, blocks_add_blocks,
      State.update_tail, List.length_append]

theorem State.foldl_update_flatten (chunks : List (List Byte)) (s : State) :
    SameStream (chunks.foldl (fun u chunk => u.update chunk) s) (s.update chunks.flatten) := by
  induction chunks generalizing s with
  | nil =>
    rw [List.flatten_nil, State.update_nil]
    exact .refl s
  | cons chunk chunks ih => exact (ih (s.update chunk)).trans (s.update_append chunk chunks.flatten)

/-- Settles O42. -/
theorem chunkingDoesNotMatter : Obligations.ChunkingDoesNotMatter := by
  unfold Obligations.ChunkingDoesNotMatter
  intro s chunks
  obtain ⟨hchain, hpos, hcount, htail⟩ := State.foldl_update_flatten chunks s
  exact ⟨hchain, hpos, hcount, htail⟩

end Sys2Proof.Machine
end

section
/-! PROOFS. The Finalizer (42_finalize.md): the padding and its bit length (R141, R142), and the acceptance and the
execution of FINAL (R140, R143, R144). -/

namespace Sys2Proof.Machine

/-! ## The padding (R141, R142) -/

/-- R142: the last eight bytes of the padding, the bit length least significant byte first. -/
def lengthBytes (count : BitVec 64) : List Byte := (List.range 8).map fun j => (count <<< 3).extractLsb' (8 * j) 8

/-- A field of a field, within its width. -/
theorem extractLsb'_extractLsb'_add {w start len low width : Nat} (h : start + len ≤ width) (x : BitVec w) :
    (x.extractLsb' low width).extractLsb' start len = x.extractLsb' (low + start) len := by
  refine BitVec.eq_of_getLsbD_eq fun i hi => ?_
  simp only [BitVec.getLsbD_extractLsb', show start + i < width by omega, decide_true, Bool.true_and, Nat.add_assoc]

theorem lengthBytes_eq (count : BitVec 64) :
    le32bytes (lengthWords count).1 ++ le32bytes (lengthWords count).2 = lengthBytes count := by
  simp [lengthBytes, lengthWords, le32bytes, extractLsb'_extractLsb'_add, List.range_succ]

theorem padding_eq (pos : Nat) (count : BitVec 64) :
    padding pos count = 0x80#8 :: List.replicate (padLen pos - 9) 0x00#8 ++ lengthBytes count := by
  rw [padding, List.append_assoc, lengthBytes_eq]
  rfl

theorem padLen_sub_add_nine (pos : BitVec 6) : padLen pos.toNat - 9 + 9 = padLen pos.toNat := by
  rw [padLen_eq]
  split <;> omega

theorem toNat_shiftLeft_three {count : BitVec 64} (h : count.toNat < 2 ^ 61) :
    (count <<< 3).toNat = 8 * count.toNat := by
  rw [BitVec.toNat_shiftLeft, Nat.shiftLeft_eq]
  omega

theorem lowWord_shiftLeft_three (count : BitVec 64) :
    (count <<< 3).extractLsb' 0 32 = count.extractLsb' 0 32 <<< 3 := by
  refine BitVec.eq_of_getLsbD_eq fun i hi => ?_
  simp only [BitVec.getLsbD_extractLsb', BitVec.getLsbD_shiftLeft]
  grind

theorem highWord_shiftLeft_three (count : BitVec 64) :
    (count <<< 3).extractLsb' 32 32 = count.extractLsb' 32 32 <<< 3 ||| count.extractLsb' 0 32 >>> 29 := by
  refine BitVec.eq_of_getLsbD_eq fun i hi => ?_
  simp only [BitVec.getLsbD_extractLsb', BitVec.getLsbD_shiftLeft, BitVec.getLsbD_or, BitVec.getLsbD_ushiftRight]
  grind

/-- Settles O44. -/
theorem paddingIsAsTheRuleSays : Obligations.PaddingIsAsTheRuleSays := by
  unfold Obligations.PaddingIsAsTheRuleSays
  intro pos count pad n
  have hn : n = if pos.toNat ≤ 55 then 64 - pos.toNat else 128 - pos.toNat := padLen_eq pos
  have hpad : pad = 0x80#8 :: List.replicate (n - 9) 0x00#8 ++ lengthBytes count := padding_eq _ _
  have hnine : n - 9 + 9 = n := padLen_sub_add_nine pos
  refine ⟨hn, ?ends, padding_length pos count, ?marker, fun i hlo hhi => ?zero, fun j hj => ?length,
    lowWord_shiftLeft_three count, highWord_shiftLeft_three count, toNat_shiftLeft_three⟩
  case ends =>
    split at hn <;> omega
  case marker => rw [hpad]; rfl
  case zero =>
    obtain ⟨i, rfl⟩ := Nat.exists_eq_add_of_le' hlo
    rw [hpad, List.cons_append, List.getElem?_cons_succ, List.getElem?_append_left (by simp; omega),
      List.getElem?_replicate_of_lt (by omega)]
    rfl
  case length =>
    rw [hpad, List.getElem?_append_right (by simp; omega)]
    simp [lengthBytes, show n - 8 + j - (n - 9 + 1) = j by omega, hj]

/-- A message's padding is that of its length, so long as the bit length fits in 64 bits. -/
theorem padding_eq_refPadding {len : Nat} (h : len < 2 ^ 61) :
    padding (len % 64) (BitVec.ofNat 64 len) = refPadding len := by
  have hzeros : padLen (len % 64) - 9 = (119 - len % 64) % 64 := by
    unfold padLen
    split <;> omega
  have hcount : (BitVec.ofNat 64 len).toNat = len := by
    rw [BitVec.toNat_ofNat]
    omega
  have hbytes : lengthBytes (BitVec.ofNat 64 len) = (List.range 8).map fun j => BitVec.ofNat 8 (8 * len / 256 ^ j) := by
    refine List.map_congr_left fun j _ => BitVec.eq_of_toNat_eq ?_
    rw [BitVec.extractLsb'_toNat, toNat_shiftLeft_three (hcount.trans_lt h), hcount, Nat.shiftRight_eq_div_pow,
      Nat.pow_mul, BitVec.toNat_ofNat]
  rw [padding_eq, hzeros, hbytes, refPadding]

/-! ## FINAL (R140, R143, R144) -/

theorem exec_final (s : State) : exec .final s = .next s.finalize.retire := rfl

/-- Settles O43: FINAL's word decodes to FINAL, whose acceptance depends on BUSY, ERR and DONE only. -/
theorem finalIsAcceptedAndAlwaysExecutes : Obligations.FinalIsAcceptedAndAlwaysExecutes := by
  unfold Obligations.FinalIsAcceptedAndAlwaysExecutes
  have hidle {s : State} (hb : s.busy = false) : s.accept 0x00000003 = s.ifFresh (s.setPending .final) :=
    State.accept_of_final hb rfl
  refine ⟨fun s hb => State.accept_of_busy hb _, fun s hb he => ?poisoned, fun s hb he hd => ?done,
    fun s hb he hd => ?fresh, fun s => ⟨_, exec_final s, by simp, rfl, rfl, by simp, by simp⟩⟩
  case poisoned => rw [hidle hb, State.ifFresh_of_err he]
  case done =>
    rw [hidle hb, State.ifFresh_of_done he hd, State.raiseError_of_noError he]
    rfl
  case fresh =>
    rw [hidle hb, State.ifFresh_of_fresh he hd]
    rfl

theorem State.finalize_chain (s : State) :
    s.finalize.chain =
      refBlocks ((s.pos.toNat + padLen s.pos.toNat) / 64) (s.tail ++ padding s.pos.toNat s.count) s.chain := by
  rw [State.finalize, State.setDone_chain, State.update_chain, padding_length]

theorem State.finalize_count (s : State) :
    s.finalize.count = s.count + BitVec.ofNat 64 (padLen s.pos.toNat) := by
  rw [State.finalize, State.setDone_count, State.update_count, padding_length]

/-- R144: the padding ends this block, or the next one when it does not fit in this one. -/
theorem finalBlocks_eq (pos : BitVec 6) :
    (pos.toNat + padLen pos.toNat) / 64 = if pos.toNat ≤ 55 then 1 else 2 := by
  rw [padLen_eq]
  split <;> omega

/-- Settles O45: FINAL is UPDATE of the padding, which ends a block (`add_padLen_mod`). -/
theorem finalCompressesThePadding : Obligations.FinalCompressesThePadding := by
  unfold Obligations.FinalCompressesThePadding
  refine fun s => ⟨_, exec_final s, ?chain, s.finalize_pos, s.finalize_count, fun hcount => ?count, s.finalize_done, rfl,
    rfl⟩
  case chain => rw [State.retire_chain, State.finalize_chain, finalBlocks_eq]
  case count =>
    have hends := add_padLen_mod s.pos
    rw [State.retire_count, State.finalize_count, BitVec.toNat_add, BitVec.toNat_ofNat]
    omega

end Sys2Proof.Machine
end

section
/-! PROOFS. INIT, ABSORBs and FINAL leave the digest of the bytes absorbed, however they are cut (R145, R127). -/

namespace Sys2Proof.Machine

/-! ## The context of a message not yet finished -/

/-- Since INIT the engine has absorbed exactly the bytes of `m`, without an error. -/
structure State.Absorbed (m : List Byte) (s : State) : Prop where
  chain : s.chain = refBlocks (m.length / 64) m Chain.iv
  tail : s.tail = m.drop (64 * (m.length / 64))
  pos : s.pos.toNat = m.length % 64
  count : s.count = BitVec.ofNat 64 m.length
  done : s.done = false
  err : s.err = false

/-- INIT begins the empty message. -/
theorem State.absorbed_init (s : State) : s.freshContext.clearError.retire.Absorbed [] :=
  ⟨rfl, rfl, rfl, rfl, rfl, rfl⟩

theorem State.Absorbed.setPending {m : List Byte} {s : State} (h : s.Absorbed m) (p : Pending) :
    (s.setPending p).Absorbed m := { h with }

theorem State.Absorbed.retire {m : List Byte} {s : State} (h : s.Absorbed m) : s.retire.Absorbed m := { h with }

/-- UPDATE appends its chunk to the message: the blocks that the message had completed come first. -/
theorem State.Absorbed.update {m : List Byte} {s : State} (h : s.Absorbed m) (chunk : List Byte) :
    (s.update chunk).Absorbed (m ++ chunk) := by
  have hwhole : 64 * (m.length / 64) ≤ m.length := Nat.mul_div_le _ _
  have hstream : s.tail ++ chunk = (m ++ chunk).drop (64 * (m.length / 64)) := by
    rw [h.tail, List.drop_append_of_le_length hwhole]
  have hblocks : m.length / 64 + (s.pos.toNat + chunk.length) / 64 = (m ++ chunk).length / 64 := by
    rw [h.pos, List.length_append]
    omega
  exact {
    chain := by
      rw [State.update_chain, hstream, h.chain, ← refBlocks_append hwhole chunk, ← refBlocks_add, hblocks]
    tail := by rw [State.update_tail, hstream, List.drop_drop, ← Nat.mul_add, hblocks]
    pos := by rw [State.update_pos, h.pos, Nat.mod_add_mod, List.length_append]
    count := by rw [State.update_count, h.count, List.length_append, BitVec.ofNat_add]
    done := (State.update_done chunk s).trans h.done
    err := (State.update_err chunk s).trans h.err }

/-- FINAL absorbs the message's padding, which leaves whole blocks only: the chaining state is the message's digest. -/
theorem State.Absorbed.finalize_chain {m : List Byte} {s : State} (h : s.Absorbed m) (hlen : m.length < 2 ^ 61) :
    s.finalize.chain = refMd5 m := by
  have hpad : padding s.pos.toNat s.count = refPadding m.length := by rw [h.pos, h.count, padding_eq_refPadding hlen]
  rw [State.finalize, State.setDone_chain, hpad, (h.update _).chain, refMd5]

/-! ## INIT, ABSORBs, FINAL -/

theorem State.Absorbed.absorbChunks_next {m : List Byte} {s : State} (h : s.Absorbed m) {chunks : List (List Byte)}
    (hlen : ∀ chunk ∈ chunks, chunk.length ≤ 64) :
    ∃ t, absorbChunks chunks s = .next t ∧ t.Absorbed (m ++ chunks.flatten) := by
  induction chunks generalizing m s with
  | nil => exact ⟨s, rfl, by simpa using h⟩
  | cons chunk chunks ih =>
    rw [List.forall_mem_cons] at hlen
    obtain ⟨hchunk, hrest⟩ := hlen
    have hbytes : chunk.length = (BitVec.ofNat 7 chunk.length).toNat := by
      rw [BitVec.toNat_ofNat]
      omega
    have hexec : exec (.absorb (BitVec.ofNat 7 chunk.length)) _ = _ :=
      execAbsorb_of_pend (State.setPending_pend s (.absorb (BitVec.ofNat 7 chunk.length) chunk)) hbytes
    simp only [absorbChunks, hexec, List.flatten_cons, ← List.append_assoc]
    exact ih ((h.setPending _).update chunk).retire hrest

/-- Settles O47: from INIT on, `State.Absorbed` grows by each chunk. -/
theorem absorbedMessageIsHashed : Obligations.AbsorbedMessageIsHashed := by
  unfold Obligations.AbsorbedMessageIsHashed
  intro s chunks hchunks hlen
  obtain ⟨t, hrun, ht⟩ := s.absorbed_init.absorbChunks_next hchunks
  refine ⟨t.finalize.retire, ?_, ht.finalize_chain hlen, t.finalize_done, t.finalize_err.trans ht.err, rfl⟩
  have hinit : exec .init s = .next s.freshContext.clearError.retire := rfl
  simp only [hashChunks, hinit, hrun, exec_final]

end Sys2Proof.Machine
end

section
/-! PROOFS. The host sequence HASH (R83, R147), statement by statement: what the machine reaches from a state with a
statement to run, under every order of the turns (R62). -/

namespace Sys2Proof.Machine

/-! ## Reached states -/

/-- The machine runs from `s` to a state with the property `Q`. -/
def Reaches (s : State) (Q : State → Prop) : Prop := ∃ n t, Host.Core.run core n s = .next t ∧ Q t

theorem Reaches.refl {s : State} {Q : State → Prop} (h : Q s) : Reaches s Q := ⟨0, s, rfl, h⟩

theorem Reaches.trans {s : State} {P Q : State → Prop} (h : Reaches s P) (hPQ : ∀ t, P t → Reaches t Q) :
    Reaches s Q := by
  obtain ⟨m, t, hm, ht⟩ := h
  obtain ⟨n, u, hn, hu⟩ := hPQ t ht
  exact ⟨m + n, u, (core_run_add hm).trans hn, hu⟩

theorem Reaches.mono {s : State} {P Q : State → Prop} (h : Reaches s P) (hPQ : ∀ t, P t → Q t) : Reaches s Q :=
  h.trans fun t ht => .refl (hPQ t ht)

theorem Reaches.of_step {s t : State} {Q : State → Prop} (hst : step s = .next t) (h : Reaches t Q) : Reaches s Q := by
  obtain ⟨n, u, hn, hu⟩ := h
  exact ⟨n + 1, u, (core_run_succ n hst).trans hn, hu⟩

/-! ## Between two statements of the host -/

/-- The engine is idle, no reset is laid down, and the host has `ops` left to run. -/
structure State.Ready (ops : List HostOp) (s : State) : Prop where
  notCompressing : s.compressing = false
  idle : s.busy = false
  noReset : .reset ∉ s.sched
  host : s.host = ops

theorem State.Ready.eq_withHost {ops : List HostOp} {s : State} (h : s.Ready ops) : s = { s with host := ops } := by
  rw [← h.host]

/-- The host's next statement runs, some turns after. -/
theorem State.Ready.reaches {op : HostOp} {ops : List HostOp} {s : State} (h : s.Ready (op :: ops)) :
    ∃ turns, .reset ∉ turns ∧ ∀ t, op.run ops (s.took turns) = .next t → Reaches s (· = t) := by
  obtain ⟨n, turns, hr, hrun⟩ := run_to_hostTurn h.notCompressing h.idle h.noReset
  exact ⟨turns, hr, fun t ht => ⟨n, t, hrun t ((hostTurn_cons (s := s.took turns) h.host).trans ht), rfl⟩⟩

theorem State.Ready.reaches_poll {ops : List HostOp} {s : State} (h : s.Ready (.poll :: ops)) :
    Reaches s fun t => t.Ready ops ∧ ∃ turns, t = { s with host := ops, sched := turns } := by
  obtain ⟨turns, hr, hrun⟩ := h.reaches
  refine (hrun _ (HostOp.run_poll_idle (s := s.took turns) ops h.idle)).mono ?_
  rintro _ rfl
  exact ⟨⟨h.notCompressing, h.idle, hr, rfl⟩, turns, rfl⟩

/-! ## LOAD -/

theorem State.Ready.reaches_writeData (f : Fin 16 → Word) {ks : List (Fin 16)} {ops : List HostOp} {s : State}
    (h : s.Ready ((ks.map fun k => wr (dataOffset k.val) (f k)) ++ ops)) :
    Reaches s fun t => t.Ready ops ∧ ∃ turns, t = { s with
      host := ops, sched := turns, data := setAll f ks s.data, written := setAll (fun _ => true) ks s.written } := by
  induction ks generalizing s with
  | nil => exact .refl ⟨h, s.sched, h.eq_withHost⟩
  | cons k ks ih =>
    obtain ⟨turns, hr, hrun⟩ := h.reaches
    have hstore : (wr (dataOffset k.val) (f k)).run _ (s.took turns) = _ :=
      (hostTurn_cons (s := s.took turns) h.host).symm.trans (hostTurn_writeData h.host)
    refine (hrun _ hstore).trans ?_
    rintro _ rfl
    exact ih ⟨h.notCompressing, h.idle, hr, rfl⟩

/-- The snapshot of a window that LOAD has written is LOAD's bytes. -/
theorem State.snapshot_loadRegs {s : State} {bytes : List Byte} (hm : bytes.length ≤ 64)
    (hdata : ∀ k ∈ loadRegs bytes.length, s.written[k] = true ∧ s.data[k] = loadWord bytes k.val) :
    s.snapshot bytes.length = bytes := by
  rw [State.snapshot_eq_take (words := Vector.ofFn fun k => loadWord bytes k.val) hm, windowBytes_loadWord hm]
  intro k hk
  obtain ⟨hwritten, hword⟩ := hdata k (mem_loadRegs.mpr (by omega))
  rw [State.dataWord, if_pos hwritten, hword]
  exact Vector.getElem_ofFn _

theorem State.Ready.reaches_load {bytes : List Byte} {ops : List HostOp} {s : State} (hm : bytes.length ≤ 64)
    (h : s.Ready (pseudoLoad bytes ++ ops)) :
    Reaches s fun t => t.Ready ops ∧ t.snapshot bytes.length = bytes ∧
      ∃ turns data written, t = { s with host := ops, sched := turns, data := data, written := written } := by
  rw [pseudoLoad_eq hm] at h
  refine (State.Ready.reaches_writeData (fun k => loadWord bytes k.val) h).mono ?_
  rintro _ ⟨ht, turns, rfl⟩
  refine ⟨ht, State.snapshot_loadRegs hm fun k hk => ?_, turns, _, _, rfl⟩
  exact ⟨setAll_getElem_of_mem hk, setAll_getElem_of_mem (f := fun k => loadWord bytes k.val) hk⟩

/-! ## A command and the POLL after it (R81) -/

/-- What the execution of the command in PEND leaves (`exec_eq_effect`). -/
def Pending.effect : Pending → State → State
  | .nop, s => s.retire
  | .init, s => s.freshContext.clearError.retire
  | .absorb _ bytes, s => (s.update bytes).retire
  | .final, s => s.finalize.retire

/-- An ABSORB holds exactly its LEN bytes (R30). -/
def Pending.Complete : Pending → Prop
  | .absorb len bytes => bytes.length = len.toNat
  | _ => True

theorem exec_eq_effect {s : State} {p : Pending} (hp : s.pend = some p) (hl : p.Complete) :
    exec p.instr s = .next (p.effect s) := by
  cases p with
  | absorb len bytes => exact execAbsorb_of_pend hp hl
  | _ => rfl

@[simp] theorem Pending.effect_busy (p : Pending) (s : State) : (p.effect s).busy = false := by cases p <;> rfl

@[simp] theorem Pending.effect_host (p : Pending) (s : State) : (p.effect s).host = s.host := by
  cases p <;> simp [Pending.effect]

@[simp] theorem Pending.effect_sched (p : Pending) (s : State) : (p.effect s).sched = s.sched := by
  cases p <;> simp [Pending.effect]

theorem Pending.effect_compressing (p : Pending) {s : State} (h : s.compressing = false) :
    (p.effect s).compressing = false := by
  cases p with
  | nop => exact h
  | init => exact h
  | absorb len bytes => exact State.update_compressing bytes s h
  | final => exact State.finalize_compressing h

/-- While the host polls, the command in PEND executes: turns of the host only draw free values, until the engine's
turn comes (R62). -/
theorem State.reaches_effect {s : State} {p : Pending} {ops : List HostOp} (hc : s.compressing = false)
    (hb : s.busy = true) (hp : s.pend = some p) (hr : .reset ∉ s.sched) (hh : s.host = .poll :: ops)
    (hl : p.Complete) :
    Reaches s fun t => ∃ turns draws, .reset ∉ turns ∧ t = p.effect { s with sched := turns, draws := draws } := by
  induction hsched : s.sched generalizing s with
  | nil =>
    have hstep : step s = .next (p.effect s) := by
      rw [step_of_pending hc hsched hb, engineTurn_of_pend hb hp, exec_eq_effect hp hl]
    exact .of_step hstep (.refl ⟨s.sched, s.draws, hr, rfl⟩)
  | cons turn turns ih =>
    rw [hsched, List.mem_cons, not_or] at hr
    obtain ⟨hne, hr⟩ := hr
    cases turn with
    | reset => exact absurd rfl hne
    | engine =>
      have hstep : step s = .next (p.effect (s.took turns)) := by
        rw [step_of_engineTurn hc hsched, engineTurn_of_pend (s := s.took turns) hb hp,
          exec_eq_effect (s := s.took turns) hp hl]
      exact .of_step hstep (.refl ⟨turns, s.draws, hr, rfl⟩)
    | host =>
      have hstep : step s = .next ((s.took turns).drew 1) := by
        rw [step_of_hostTurn hc hsched, hostTurn_cons (s := s.took turns) hh,
          HostOp.run_poll_busy (s := s.took turns) ops hb]
      exact .of_step hstep (ih (s := (s.took turns).drew 1) hc hb hp hr hh rfl)

/-- A CTRL write that puts `p` in PEND, and the POLL after it: `p` executes on the context as the write found it. -/
theorem State.Ready.reaches_command {s : State} {v : Word} {p : Pending} {ops : List HostOp}
    (h : s.Ready (wr 0x00 v :: .poll :: ops))
    (haccept : ∀ turns, ∃ n, (s.took turns).accept v = ((s.took turns).setPending p).drew n)
    (hl : p.Complete) :
    Reaches s fun t => t.Ready ops ∧ ∃ host turns draws turns',
      t = { p.effect { s.setPending p with host := host, sched := turns, draws := draws } with
        host := ops, sched := turns' } := by
  obtain ⟨turns, hr, hrun⟩ := h.reaches
  obtain ⟨n, ha⟩ := haccept turns
  have hwrite : (wr 0x00 v).run (.poll :: ops) (s.took turns) =
      .next { ((s.took turns).setPending p).drew n with host := .poll :: ops } := by
    rw [← ha]
    rfl
  refine (hrun _ hwrite).trans ?_
  rintro _ rfl
  refine (State.reaches_effect (s := { ((s.took turns).setPending p).drew n with host := .poll :: ops })
    h.notCompressing rfl rfl hr rfl hl).trans ?_
  rintro _ ⟨turns₁, draws, hr₁, rfl⟩
  refine (State.Ready.reaches_poll ⟨p.effect_compressing (by exact h.notCompressing), p.effect_busy _, ?_,
    p.effect_host _⟩).mono ?_
  · rwa [Pending.effect_sched]
  · rintro _ ⟨ht, turns₂, rfl⟩
    exact ⟨ht, _, _, _, turns₂, rfl⟩

/-! ## Inside HASH -/

/-- Since INIT the engine has absorbed `m`, and the host has `ops` left to run. -/
structure State.Hashing (params : Params) (m : List Byte) (ops : List HostOp) (s : State) : Prop where
  ready : s.Ready ops
  absorbed : s.Absorbed m
  params : s.params = params

theorem State.Ready.reaches_init {ops : List HostOp} {s : State} (h : s.Ready (pseudoInit ++ ops)) :
    Reaches s (State.Hashing s.params [] ops) := by
  refine (State.Ready.reaches_command (p := .init) h (fun turns => ⟨0, ?_⟩) trivial).mono ?_
  · exact State.accept_of_init (s := s.took turns) h.idle rfl
  · rintro _ ⟨ht, host, turns, draws, turns', rfl⟩
    exact ⟨ht, { State.absorbed_init _ with }, rfl⟩

theorem State.Hashing.reaches_load {params : Params} {m bytes : List Byte} {ops : List HostOp} {s : State}
    (h : s.Hashing params m (pseudoLoad bytes ++ ops)) (hm : bytes.length ≤ 64) :
    Reaches s fun t => t.Hashing params m ops ∧ t.snapshot bytes.length = bytes := by
  refine (State.Ready.reaches_load hm h.ready).mono ?_
  rintro _ ⟨ht, hsnap, turns, data, written, rfl⟩
  exact ⟨⟨ht, { h.absorbed with }, h.params⟩, hsnap⟩

/-- The word of ABSORB n decodes to it (R76, R81). -/
theorem decodeCommand_absorbWord {n : Nat} (h : n ≤ 64) :
    decodeCommand (BitVec.ofNat 32 (n * 0x100 + 0x02)) = .absorb (BitVec.ofNat 7 n) := by
  rw [decodeCommand_eq_iff, Decodes.absorb_iff]
  simp only [BitVec.toNat_ofNat]
  omega

/-- ABSORB n on a fresh context goes into PEND with the window's first n bytes, within MAX_BYTES (R120). -/
theorem State.accept_absorbWord {s : State} {n : Nat} (hn : n ≤ 64) (hb : s.busy = false) (he : s.err = false)
    (hd : s.done = false) (hfit : s.count.toNat + n ≤ s.params.maxBytes) :
    s.accept (BitVec.ofNat 32 (n * 0x100 + 0x02)) =
      (s.setPending (.absorb (BitVec.ofNat 7 n) (s.snapshot n))).drew 16 := by
  have hlen : (BitVec.ofNat 7 n).toNat = n := Nat.mod_eq_of_lt (by omega)
  rw [State.accept_of_absorb hb (decodeCommand_absorbWord hn), State.ifFresh_of_fresh he hd, State.acceptAbsorb, hlen,
    if_neg (Nat.not_lt.mpr hfit), State.pendAbsorb, hlen]

/-- An ABSORB of the window's bytes appends them to the message (R123). -/
theorem State.Hashing.reaches_absorb {params : Params} {m bytes : List Byte} {ops : List HostOp} {s : State}
    (h : s.Hashing params m (pseudoAbsorb bytes.length ++ ops)) (hsnap : s.snapshot bytes.length = bytes)
    (hm : bytes.length ≤ 64) (hfit : (m ++ bytes).length ≤ params.maxBytes) :
    Reaches s (State.Hashing params (m ++ bytes) ops) := by
  have hcount : s.count.toNat + bytes.length ≤ s.params.maxBytes := by
    have hle : s.count.toNat ≤ m.length := by
      rw [h.absorbed.count, BitVec.toNat_ofNat]
      exact Nat.mod_le _ _
    rw [List.length_append] at hfit
    rw [h.params]
    omega
  have haccept (turns : List Turn) : (s.took turns).accept (BitVec.ofNat 32 (bytes.length * 0x100 + 0x02)) =
      ((s.took turns).setPending (.absorb (BitVec.ofNat 7 bytes.length) bytes)).drew 16 := by
    have hword := State.accept_absorbWord (s := s.took turns) hm h.ready.idle h.absorbed.err h.absorbed.done hcount
    rwa [show (s.took turns).snapshot bytes.length = bytes from hsnap] at hword
  have hlen : bytes.length = (BitVec.ofNat 7 bytes.length).toNat := (Nat.mod_eq_of_lt (by omega)).symm
  refine (h.ready.reaches_command (fun turns => ⟨16, haccept turns⟩) hlen).mono ?_
  rintro _ ⟨ht, host, turns, draws, turns', rfl⟩
  have hpending : State.Absorbed m { s.setPending (.absorb (BitVec.ofNat 7 bytes.length) bytes) with
      host := host, sched := turns, draws := draws } := { h.absorbed with }
  exact ⟨ht, { hpending.update bytes with }, (State.update_params _ _).trans h.params⟩

/-- LOAD and ABSORB of slice after slice append all the bytes (R83). -/
theorem State.Hashing.reaches_slices {params : Params} {n : Nat} {m bytes : List Byte} {ops : List HostOp} {s : State}
    (h : s.Hashing params m (absorbSlices n bytes ++ ops)) (hn : bytes.length ≤ 64 * n)
    (hfit : (m ++ bytes).length ≤ params.maxBytes) : Reaches s (State.Hashing params (m ++ bytes) ops) := by
  induction n generalizing m bytes s with
  | zero =>
    obtain rfl : bytes = [] := List.eq_nil_of_length_eq_zero (Nat.le_zero.mp hn)
    rw [List.append_nil]
    exact .refl h
  | succ n ih =>
    have hslice : (bytes.take 64).length ≤ 64 := List.length_take_le _ _
    have hmessage : m ++ bytes = m ++ bytes.take 64 ++ bytes.drop 64 := by
      rw [List.append_assoc, List.take_append_drop]
    rw [hmessage] at hfit ⊢
    rw [absorbSlices, List.append_assoc, List.append_assoc] at h
    refine (h.reaches_load hslice).trans fun t ht => ?_
    obtain ⟨ht, hsnap⟩ := ht
    refine (ht.reaches_absorb hsnap hslice ?_).trans fun u hu => ih hu ?_ hfit
    · rw [List.length_append] at hfit
      exact (Nat.le_add_right _ _).trans hfit
    · rw [List.length_drop]
      omega

/-- The context after FINAL: the digest of `m` stands in STATE_A..STATE_D, without an error (R145). -/
structure State.Hashed (m : List Byte) (s : State) : Prop where
  chain : s.chain = refMd5 m
  done : s.done = true
  err : s.err = false

theorem State.Hashing.reaches_final {params : Params} {m : List Byte} {ops : List HostOp} {s : State}
    (h : s.Hashing params m (pseudoFinal ++ ops)) (hlen : m.length < 2 ^ 61) :
    Reaches s fun t => t.Ready ops ∧ t.Hashed m := by
  refine (h.ready.reaches_command (p := .final) (fun turns => ⟨0, ?_⟩) trivial).mono ?_
  · exact (State.accept_of_final (s := s.took turns) h.ready.idle rfl).trans
      (State.ifFresh_of_fresh (s := s.took turns) h.absorbed.err h.absorbed.done _)
  · rintro _ ⟨ht, host, turns, draws, turns', rfl⟩
    have hpending : State.Absorbed m { s.setPending .final with host := host, sched := turns, draws := draws } :=
      { h.absorbed with }
    exact ⟨ht, hpending.finalize_chain hlen, rfl, (State.finalize_err _).trans hpending.err⟩

/-! ## Reading the digest -/

theorem HostOp.run_rd {off t : Nat} {v : Word} {s u : State} {ops : List HostOp} (h : s.busRead off 4 = .ok (v, u)) :
    (rd off t).run ops s = .next { u with host := ops, reads := (t, v) :: u.reads } := by
  simp only [rd, HostOp.run, h]

/-- Reads of digest words on an idle engine (R35) put them in the host's read log. -/
theorem State.Ready.reaches_readDigest {qs : List (Fin 4)} {s : State}
    (h : s.Ready (qs.map fun q => rd (0x10 + 4 * q.val) q.val)) :
    Reaches s fun t => t.Ready [] ∧ ∃ turns, t = { s with
      host := [], sched := turns
      reads := (qs.map fun q => (q.val, s.chain.words[q.val]'q.isLt)).reverse ++ s.reads } := by
  induction qs generalizing s with
  | nil => exact .refl ⟨h, s.sched, h.eq_withHost⟩
  | cons q qs ih =>
    obtain ⟨turns, hr, hrun⟩ := h.reaches
    obtain ⟨v, hv, hread⟩ := State.busRead_digest (s := s.took turns) h.idle q.isLt
    obtain ⟨_, rfl⟩ := List.getElem?_eq_some_iff.mp hv
    refine (hrun _ (HostOp.run_rd hread)).trans ?_
    rintro _ rfl
    refine Reaches.mono (ih ?_) ?_
    · exact ⟨h.notCompressing, h.idle, hr, rfl⟩
    · rintro _ ⟨ht, turns', rfl⟩
      refine ⟨ht, turns', ?_⟩
      rw [List.map_cons, List.reverse_cons, List.append_assoc]
      rfl

/-- Settles O48: INIT, the slices, FINAL and the four reads in turn. -/
theorem hashSequenceReadsTheDigest : Obligations.HashSequenceReadsTheDigest := by
  unfold Obligations.HashSequenceReadsTheDigest
  intro s message hinv hb hr hh hfit
  have hmax := hinv.maxBytesLegal
  have hready : s.Ready (pseudoInit ++ (absorbSlices ((message.length + 63) / 64) message ++ (pseudoFinal ++
      ([0, 1, 2, 3] : List (Fin 4)).map fun q => rd (0x10 + 4 * q.val) q.val))) :=
    ⟨hinv.notCompressing, hb, hr, by rw [hh, pseudoHash, List.append_assoc, List.append_assoc]; rfl⟩
  have habsorbed := hready.reaches_init.trans fun t ht => ht.reaches_slices (by omega) hfit
  have hhashed := habsorbed.trans fun t ht => ht.reaches_final (by rw [List.nil_append]; omega)
  refine hhashed.trans fun t ht => ?_
  obtain ⟨ht, hdigest⟩ := ht
  refine ht.reaches_readDigest.mono ?_
  rintro _ ⟨hu, turns, rfl⟩
  rw [← List.nil_append message, ← hdigest.chain]
  exact ⟨rfl, hu.idle, hdigest.done, hdigest.err, rfl, rfl, rfl, rfl⟩

end Sys2Proof.Machine
end

section
/-! PROOFS. Errors (R160 to R169): they are recorded at a CTRL write only, the first one is kept, and a poisoned, a
finished and an idle context each keep what the rules say they keep (R164, R165, R178). -/

namespace Sys2Proof.Machine

/-! ## Recording an error (R163) -/

/-- Settles O50: that no event but INIT and reset clears the record is `firstErrorStaysUntilInitOrReset`. -/
theorem raisingRecordsTheFirstErrorOnly : Obligations.RaisingRecordsTheFirstErrorOnly := by
  unfold Obligations.RaisingRecordsTheFirstErrorOnly
  refine ⟨fun s t h herr hne => ?_, fun s c => ⟨fun he => ?_, s.raiseError_poisoned c⟩⟩
  · obtain ⟨-, hkept, -⟩ := firstErrorStaysUntilInitOrReset s t h
    by_contra hno
    obtain ⟨hi, hr⟩ := not_or.mp hno
    obtain ⟨h₁, h₂⟩ := hkept hi hr herr
    simp [h₁, h₂] at hne
  · rw [State.raiseError_of_noError he]
    cases c <;> rfl

/-! ## The length limit (R168) -/

theorem State.acceptAbsorb_of_over {s : State} {len : BitVec 7}
    (h : s.params.maxBytes < s.count.toNat + len.toNat) : s.acceptAbsorb len = s.raiseError .limit := if_pos h

theorem State.acceptAbsorb_of_fits {s : State} {len : BitVec 7}
    (h : s.count.toNat + len.toNat ≤ s.params.maxBytes) : s.acceptAbsorb len = s.pendAbsorb len :=
  if_neg (Nat.not_lt.mpr h)

/-- Settles O53. -/
theorem limitRefusesAnOverlongMessage : Obligations.LimitRefusesAnOverlongMessage := by
  unfold Obligations.LimitRefusesAnOverlongMessage
  refine ⟨fun s v n hb he hd hv => ?_, fun s hb he hd => ?_, rfl⟩
  · have ha : s.accept v = s.acceptAbsorb n := (State.accept_of_absorb hb hv).trans (State.ifFresh_of_fresh he hd _)
    refine ⟨fun hover => ?_, fun hfits => ?_⟩
    · rw [ha, State.acceptAbsorb_of_over hover, State.raiseError_of_noError he]
      rfl
    · rw [ha, State.acceptAbsorb_of_fits hfits, State.pendAbsorb_pend]
  · rw [State.accept_of_final hb rfl, State.ifFresh_of_fresh he hd, State.setPending_pend]

/-! ## What an event says of the state before it -/

theorem Stepped.compressing_of_compressor {s t : State} {i : BitVec 6} (h : Stepped s (.compressor i) t) :
    s.compressing = true := by
  cases h with
  | compressor hc => exact hc

/-- The engine executes what PEND holds, while BUSY = 1 (R121). -/
theorem Stepped.busy_pend_of_engine {s t : State} {p : Pending} (h : Stepped s (.engine p) t) :
    s.busy = true ∧ s.pend = some p := by
  cases h <;> exact ⟨‹_›, ‹_›⟩

/-- With no FINAL pending, every event but INIT and reset keeps DONE. -/
theorem Stepped.done_of_no_final {s t : State} {e : Event} (h : Stepped s e t) (hp : s.pend ≠ some .final)
    (hi : e ≠ .engine .init) (hr : e ≠ .reset) : t.done = s.done :=
  h.done (by rintro rfl; exact hp h.busy_pend_of_engine.2) hi hr

/-! ## A poisoned context (R164) -/

@[simp] theorem State.afterStep_pend (i : BitVec 6) (s : State) : (s.afterStep i).pend = s.pend := by
  unfold State.afterStep
  split <;> rfl

/-- While ERR = 1 no write puts a FINAL in PEND. -/
theorem State.writeReg_pend_ne_final {s : State} (he : s.err = true) (hp : s.pend ≠ some .final) (r : Reg) (v : Word) :
    (s.writeReg r v).pend ≠ some .final := by
  rcases s.writeReg_cases r v with ⟨-, h⟩ | ⟨k, -, h⟩ | h
  · rw [h]
    rcases s.accept_cases v with ⟨ha, -⟩ | ⟨c, ha⟩ | ⟨ha, -⟩ | ⟨ha, -⟩ | ⟨-, -, -, hclear, -⟩ | ⟨len, ha, -⟩
    case inr.inr.inr.inr.inl => exact absurd (he.symm.trans hclear) (by decide)
    all_goals simp [ha, hp]
  · simpa [h] using hp
  · rwa [h]

theorem Stepped.pend_ne_final {s t : State} {e : Event} (h : Stepped s e t) (he : s.err = true)
    (hp : s.pend ≠ some .final) : t.pend ≠ some .final := by
  cases h with
  | nop | init | absorb | final | reset => exact nofun
  | compressor => simpa using hp
  | read rest _ _ k ops v u _ _ _ hu => rcases hu with rfl | rfl <;> exact hp
  | write rest off _ v => exact State.writeReg_pend_ne_final (s := s.took rest) he hp (regAt off) v
  | engineIdle | hostIdle | pollBusy | pollIdle | expect => exact hp

/-- Settles O51: acceptance by what the word decodes to, and the three parts of the poisoning one by one. -/
theorem poisonedContextNeverFinishes : Obligations.PoisonedContextNeverFinishes := by
  unfold Obligations.PoisonedContextNeverFinishes
  refine ⟨fun s v he hb => ⟨fun n hv => ?absorb, fun hv => ?badLen, fun hv => ?final, State.accept_of_nop hb,
    State.accept_of_init hb⟩, fun s t h hi hr he hd hp => ?keeps⟩
  case absorb => rw [State.accept_of_absorb hb hv, State.ifFresh_of_err he]
  case badLen => rw [State.accept_of_badLen hb hv, State.ifFresh_of_err he]
  case final => rw [State.accept_of_final hb hv, State.ifFresh_of_err he]
  case keeps =>
    have hst := step_stepped h
    obtain ⟨-, hkept, -⟩ := firstErrorStaysUntilInitOrReset s t h
    exact ⟨(hkept hi hr he).1, (hst.done_of_no_final hp hi hr).trans hd, hst.pend_ne_final he hp⟩

/-! ## A finished context (R165) -/

/-- Under the invariant no ABSORB and no FINAL is pending on a finished context (R30, R165). -/
theorem State.Inv.pend_of_done {s : State} (hs : s.Inv) (hd : s.done = true) :
    s.pend ≠ some .final ∧ ∀ len bytes, s.pend ≠ some (.absorb len bytes) := by
  have hfresh (h : s.pend = some .final ∨ ∃ len bytes, s.pend = some (.absorb len bytes)) : False :=
    absurd (hd.symm.trans (hs.pendingFresh h)) (by decide)
  exact ⟨fun h => hfresh (.inl h), fun len bytes h => hfresh (.inr ⟨len, bytes, h⟩)⟩

/-- No event but INIT and reset changes the digest of a finished context: the others that write the chaining state are
an ABSORB, a FINAL and the end of a COMPRESS (R21). -/
theorem State.Inv.step_chain_of_done {s t : State} (hs : s.Inv) (hd : s.done = true) (h : step s = .next t)
    (hi : s.event ≠ .engine .init) (hr : s.event ≠ .reset) : t.chain = s.chain := by
  have hst := step_stepped h
  obtain ⟨hfinal, habsorb⟩ := hs.pend_of_done hd
  by_contra hne
  rcases chainingStateChangesOnlyAsTheRuleSays s t h hne with he | he | ⟨len, bytes, he⟩ | he | he
  · exact hr he
  · exact hi he
  · exact habsorb len bytes (he ▸ hst).busy_pend_of_engine.2
  · exact hfinal (he ▸ hst).busy_pend_of_engine.2
  · exact absurd (hs.notCompressing.symm.trans (he ▸ hst).compressing_of_compressor) (by decide)

/-- Settles O52. -/
theorem reuseAfterFinalRaisesSeq : Obligations.ReuseAfterFinalRaisesSeq := by
  unfold Obligations.ReuseAfterFinalRaisesSeq
  refine ⟨fun s t hs hd h hi hr => ⟨hs.step_chain_of_done hd h hi hr, ?_⟩, fun s v hb hd he => ?_⟩
  · exact ((step_stepped h).done_of_no_final (hs.pend_of_done hd).1 hi hr).trans hd
  · have hseq (onward : State) : s.ifFresh onward = { s with err := true, errcode := 3 } := by
      rw [State.ifFresh_of_done he hd, State.raiseError_of_noError he]
      rfl
    exact ⟨fun n hv => (State.accept_of_absorb hb hv).trans (hseq _),
      fun hv => (State.accept_of_badLen hb hv).trans (hseq _),
      fun hv => (State.accept_of_final hb hv).trans (hseq _), State.accept_of_init hb⟩

/-! ## An idle engine (R178) -/

/-- The two states agree in the context, the flags, PEND and the compressor. -/
structure SameEngine (s t : State) : Prop where
  chain : t.chain = s.chain
  buf : t.buf = s.buf
  pos : t.pos = s.pos
  count : t.count = s.count
  done : t.done = s.done
  err : t.err = s.err
  errcode : t.errcode = s.errcode
  busy : t.busy = s.busy
  pend : t.pend = s.pend
  work : t.work = s.work

theorem SameEngine.refl (s : State) : SameEngine s s := ⟨rfl, rfl, rfl, rfl, rfl, rfl, rfl, rfl, rfl, rfl⟩

/-- A write outside CTRL stores in DATA at most. -/
theorem State.sameEngine_writeReg {r : Reg} (h : r ≠ .ctrl) (v : Word) (s : State) : SameEngine s (s.writeReg r v) := by
  rcases s.writeReg_cases r v with ⟨hr, -⟩ | ⟨k, -, hw⟩ | hw
  · exact absurd hr h
  · rw [hw]
    exact { SameEngine.refl s with }
  · rw [hw]
    exact .refl s

theorem Stepped.sameEngine {s t : State} {e : Event} (h : Stepped s e t) (hc : s.compressing = false)
    (hb : s.busy = false) (hr : e ≠ .reset) (hw : ∀ width v, e ≠ .host (.write 0x00 width v)) : SameEngine s t := by
  have hengine (p : Pending) : e ≠ .engine p := by
    rintro rfl
    exact absurd (hb.symm.trans h.busy_pend_of_engine.1) (by decide)
  cases h with
  | compressor hc' => exact absurd (hc.symm.trans hc') (by decide)
  | nop | init | absorb | final => exact absurd rfl (hengine _)
  | reset => exact absurd rfl hr
  | read rest _ _ k ops v u _ _ _ hu => rcases hu with rfl | rfl <;> exact { SameEngine.refl s with }
  | write rest off width v =>
    have hctrl : regAt off ≠ .ctrl := fun h0 => by
      obtain rfl := regAt_ctrl.mp h0
      exact hw width v rfl
    exact { State.sameEngine_writeReg hctrl v (s.took rest) with }
  | engineIdle | hostIdle | pollBusy | pollIdle | expect => exact { SameEngine.refl s with }

/-- Settles O54: the only events left are the host's other accesses and the turns with nothing to do. -/
theorem idleEngineKeepsItsState : Obligations.IdleEngineKeepsItsState := by
  unfold Obligations.IdleEngineKeepsItsState
  intro s t hc hb h hr hw
  obtain ⟨hchain, hbuf, hpos, hcount, hdone, herr, hcode, hbusy, hpend, hwork⟩ :=
    (step_stepped h).sameEngine hc hb hr hw
  exact ⟨hchain, hbuf, hpos, hcount, hdone, herr, hcode, hbusy.trans hb, hpend, hwork⟩

/-! ## When a step stops (R161) -/

/-- A host access that R51 or R53 refuses stops the host's turn. -/
theorem HostOp.run_fault_of_illegal {op : HostOp} (h : op.legal = false) (rest : List HostOp) (s : State) :
    ∃ f, op.run rest s = .fault f := by
  cases op with
  | read off width k =>
    obtain ⟨f, hf⟩ := Option.isSome_iff_exists.mp (Option.isNone_eq_false_iff.mp h)
    exact ⟨f, by simp only [HostOp.run, s.busRead_of_fault hf]⟩
  | write off width v =>
    obtain ⟨f, hf⟩ := Option.isSome_iff_exists.mp (Option.isNone_eq_false_iff.mp h)
    exact ⟨f, by simp only [HostOp.run, s.busWrite_of_fault v hf]⟩
  | poll => cases h
  | expect k imm => cases h

/-- What R161 leaves to the outcome of an event: a next state, or the stop of a host access that gets a bus error. -/
def GoesOnOrBusError (e : Event) (o : Host.Outcome State Fault Refusal) : Prop :=
  (∃ t, o = .next t) ∨ ∃ op f, e = .host op ∧ op.legal = false ∧ o = .fault f

theorem hostTurn_goesOnOrBusError (s : State) : GoesOnOrBusError s.hostEvent (hostTurn s) := by
  cases hh : s.host with
  | nil => exact .inl ⟨s, by rw [hostTurn, hh]⟩
  | cons op rest =>
    rw [hostTurn_cons hh, State.hostEvent, hh]
    cases hl : op.legal with
    | true => exact .inl (op.run_next_of_legal hl rest s)
    | false =>
      obtain ⟨f, hf⟩ := op.run_fault_of_illegal hl rest s
      exact .inr ⟨op, f, rfl, hl, hf⟩

theorem State.Inv.engineTurn_goesOn {s : State} (hs : s.Inv) (e : Event) : GoesOnOrBusError e (engineTurn s) := by
  obtain ⟨t, ht, -⟩ := hs.engineTurn_next
  exact .inl ⟨t, ht⟩

/-- Only a turn of the host can stop: under the invariant the engine finds what it executes in PEND. -/
theorem State.Inv.step_goesOnOrBusError {s : State} (hs : s.Inv) : GoesOnOrBusError s.event (step s) := by
  have hc := hs.notCompressing
  cases hsched : s.sched with
  | nil =>
    cases hb : s.busy with
    | true =>
      rw [step_of_pending hc hsched hb]
      exact hs.engineTurn_goesOn _
    | false =>
      rw [step_of_idle hc hsched hb, show s.event = s.hostEvent by simp [State.event, hc, hsched, hb]]
      exact hostTurn_goesOnOrBusError s
  | cons turn rest =>
    cases turn with
    | host =>
      rw [step_of_hostTurn hc hsched, show s.event = s.hostEvent by simp [State.event, hc, hsched]]
      exact hostTurn_goesOnOrBusError (s.took rest)
    | engine =>
      rw [step_of_engineTurn hc hsched]
      exact (hs.took rest).engineTurn_goesOn _
    | reset => exact .inl ⟨_, step_of_resetTurn hc hsched⟩

/-- Settles O49: a step goes on or gets a bus error, and INIT and reset, which also write ERR, clear it. -/
theorem executionNeverFails : Obligations.ExecutionNeverFails := by
  unfold Obligations.ExecutionNeverFails
  refine ⟨fun s hs => hs.step_goesOnOrBusError, fun s t h hclear herr => ?_⟩
  obtain ⟨hcleared, -, hwrites⟩ := firstErrorStaysUntilInitOrReset s t h
  have hno : ¬(s.event = .engine .init ∨ s.event = .reset) := fun he =>
    absurd (herr.symm.trans (hcleared he).1) (by decide)
  obtain ⟨hi, hr⟩ := not_or.mp hno
  exact (hwrites hi hr (.inl (by simp [hclear, herr]))).2.2

end Sys2Proof.Machine
end

section
/-! PROOFS. Reset and hazards (R180 to R185): what a reset leaves, its likeness to INIT on an idle engine, and the CTRL
write that is refused while a command is pending. -/

namespace Sys2Proof.Machine

theorem exec_init (s : State) : exec .init s = .next s.freshContext.clearError.retire := rfl

/-! ## The state after a reset (R42, R180) -/

theorem State.afterReset_written (params : Params) (host : List HostOp) (sched : List Turn)
    (reads : List (Nat × Word)) (checks : List Bool) (draws : Nat) (k : Fin 16) :
    (State.afterReset params host sched reads checks draws).written[k] = false := by
  simp [State.afterReset]

/-- STATUS reads 0 when every field it shows is 0 (R33). -/
theorem State.busRead_status_of_clear {s : State} (hpos : s.pos = 0) (hd : s.done = false) (he : s.err = false)
    (hcode : s.errcode = 0) (hb : s.busy = false) : s.busRead 0x04 4 = .ok (0, s) := by
  rw [readReg_status_idle hb, State.statusWith, hpos, hd, he, hcode, hb]
  rfl

/-- Settles O55: power-on reset and the reset turn both go to an `afterReset` state, which holds the table's values. -/
theorem resetLeavesTheValuesOfTheTable : Obligations.ResetLeavesTheValuesOfTheTable := by
  unfold Obligations.ResetLeavesTheValuesOfTheTable
  intro fresh
  have hfresh (params host sched reads checks draws) :
      fresh (State.afterReset params host sched reads checks draws) :=
    ⟨rfl, rfl, rfl, rfl, rfl, rfl, rfl, rfl, State.busRead_status_of_clear rfl rfl rfl rfl rfl,
      State.afterReset_written _ _ _ _ _ _⟩
  exact ⟨hfresh .., fun s rest hc hs => ⟨_, step_of_resetTurn hc hs, hfresh .., rfl, rfl, rfl⟩⟩

/-- Outside a COMPRESS a reset differs from the effect of INIT in BUF, DATA and the model's own fields only (R181). -/
theorem State.resetEngine_eq_init {s : State} (hc : s.compressing = false) :
    s.resetEngine = { s.freshContext.clearError.retire with
      buf := s.resetEngine.buf
      data := s.resetEngine.data
      written := s.resetEngine.written
      work := s.resetEngine.work
      draws := s.resetEngine.draws } := by
  ext1
  case compressing => exact hc.symm
  all_goals rfl

/-- Settles O56: INIT overwrites what its own acceptance put in PEND and BUSY. -/
theorem resetIsInitOnAnIdleEngine : Obligations.ResetIsInitOnAnIdleEngine := by
  unfold Obligations.ResetIsInitOnAnIdleEngine
  intro s hb hc
  rw [State.accept_of_init hb rfl]
  exact ⟨_, exec_init _, State.resetEngine_eq_init hc, rfl, rfl⟩

/-! ## A CTRL write while BUSY = 1 (R185) -/

/-- Settles O57: the write is `raiseError`, which keeps PEND. -/
theorem writeWhileBusyIsRefused : Obligations.WriteWhileBusyIsRefused := by
  unfold Obligations.WriteWhileBusyIsRefused
  intro s v hb
  rw [State.accept_of_busy hb]
  exact ⟨fun he => State.raiseError_of_noError he .busyWrite, s.raiseError_poisoned .busyWrite,
    s.raiseError_pend .busyWrite, _, exec_init _, rfl, rfl⟩

end Sys2Proof.Machine
end

section
/-! PROOFS. The words of spec/opcode_table.json: a row of 32 bits is a command word (R74), a row of 8 bits a step index
(R77), and the spec's own examples of both (V30-1). -/

namespace Sys2Proof

theorem decodeTableWord_of_fits {nbits w : Nat} (h : w < 2 ^ (8 * (tableBytes nbits w).length)) :
    decodeTableWord nbits w = (decodeBytes (tableBytes nbits w)).toOption := if_pos h

theorem tableBytes_toNat (v : Word) : tableBytes 32 v.toNat = le32bytes v := by
  rw [tableBytes, if_neg (by decide), BitVec.ofNat_toNat, BitVec.setWidth_eq]

theorem tableBytes_stepIndex (i : BitVec 6) : tableBytes 8 i.toNat = [i.setWidth 8] := by
  rw [tableBytes, if_pos le_rfl, BitVec.ofNat_toNat]

/-- A command word stands in the table for the instruction it decodes to, and for none where R73 refuses it. -/
theorem Decodes.decodeTableWord_eq {v : Word} {d : DecodedCommand} (h : Decodes v d) :
    decodeTableWord 32 v.toNat = d.toInstr.toOption := by
  have hbytes := tableBytes_toNat v
  rw [decodeTableWord_of_fits (by rw [hbytes]; exact v.isLt), hbytes, h.decodeBytes_eq]

/-- The step index of a kind and a position stands in the table for that step. -/
theorem decodeTableWord_stepIndex (k : StepKind) (posn : BitVec 4) :
    decodeTableWord 8 (stepIndex k posn).toNat = some (k.instr posn) := by
  have hbytes := tableBytes_stepIndex (stepIndex k posn)
  have hfits : (stepIndex k posn).toNat < 2 ^ 8 := (stepIndex k posn).toNat_lt_twoPow_of_le (by decide)
  rw [decodeTableWord_of_fits (by rw [hbytes]; exact hfits), hbytes, ← encode_instr, decodeBytes_encode_instr]
  rfl

/-- Settles O1: each word is a `commandWord` or a `stepIndex`, or breaks one of the conditions of R73: LEN above 64, OP
above 3, a reserved bit in 7:4 or in 31:15, LEN other than 0 without ABSORB. -/
theorem decoderReadsTheSpecsWords : Obligations.DecoderReadsTheSpecsWords := by
  unfold Obligations.DecoderReadsTheSpecsWords
  refine ⟨?nop, ?init, ?absorb3, ?absorb64, ?final, ?stepF, ?stepG, ?stepH, ?stepI, ?badLen, ?badOp,
    ?reservedLow, ?reservedHigh, ?lenOfNonAbsorb⟩
  case nop => exact Decodes.nop.decodeTableWord_eq
  case init => exact Decodes.init.decodeTableWord_eq
  case absorb3 => exact (Decodes.absorb 3 (by decide)).decodeTableWord_eq
  case absorb64 => exact (Decodes.absorb 64 (by decide)).decodeTableWord_eq
  case final => exact Decodes.final.decodeTableWord_eq
  case stepF => exact decodeTableWord_stepIndex .F 15
  case stepG => exact decodeTableWord_stepIndex .G 0
  case stepH => exact decodeTableWord_stepIndex .H 5
  case stepI => exact decodeTableWord_stepIndex .I 15
  case badLen => exact (Decodes.badLen 65 (by decide)).decodeTableWord_eq
  case badOp => exact (Decodes.illegal 0x00000004 (.inr (.inl (by decide)))).decodeTableWord_eq
  case reservedLow => exact (Decodes.illegal 0x00000012 (.inl (by decide))).decodeTableWord_eq
  case reservedHigh => exact (Decodes.illegal 0x00008002 (.inl (by decide))).decodeTableWord_eq
  case lenOfNonAbsorb => exact (Decodes.illegal 0x00000101 (.inr (.inr (by decide)))).decodeTableWord_eq

end Sys2Proof
end
